-- ==== Sys2Proof/Word.lean ====
section
/-! DEFINITION. The widths the spec fixes (00_scope.md R7, R8): a storage word, a byte view, a
selector and a command word. Bit 0 is the least significant bit everywhere (R8). -/

namespace Sys2Proof

/-- `BV16`: a storage word, the instruction pointer, a data field or a result (R8, R11, R16). -/
abbrev Word := BitVec 16

/-- `BV8`: a byte view of a storage word (R7, R12). -/
abbrev Byte := BitVec 8

/-- The 5-bit selector field of a command (R7, R34). -/
abbrev Selector := BitVec 5

/-- A command word, 32 bits (R34, R43). -/
abbrev CmdWord := BitVec 32

end Sys2Proof
end

