-- ==== Sys2Proof/Config.lean ====
section
/-! DEFINITION. The block's parameters (00_scope.md R7) and the two things the spec leaves open
(93_implementation_defined.md I3, I8). The fixed parameters stand here as the table gives them; the
model's types carry the widths themselves, and Sys2Proof/Tests/Slice0.lean ties the counts to the
model's own lists. -/

namespace Sys2Proof.Config

/-- `WORD_WIDTH` (R7). -/
def wordWidth : Nat := 16

/-- `BYTE_WIDTH` (R7). -/
def byteWidth : Nat := 8

/-- `NUM_REGS`, the storage words (R7). -/
def numRegs : Nat := 8

/-- `NUM_BYTE_ALIASED_REGS`: ax, bx, cx, dx (R7). -/
def numByteAliasedRegs : Nat := 4

/-- `NUM_WORD_ONLY_REGS`: sp, bp, si, di (R7). -/
def numWordOnlyRegs : Nat := 4

/-- `NUM_REG_NAMES` (R7; 90_conflicts.md C1: 16, not 12). -/
def numRegNames : Nat := 16

/-- `IP_WIDTH` (R7). -/
def ipWidth : Nat := 16

/-- `NUM_FLAGS` (R7). -/
def numFlags : Nat := 2

/-- `SEL_WIDTH` (R7). -/
def selWidth : Nat := 5

/-- The command word's width (R7). -/
def cmdWidth : Nat := 32

/-- `LATENCY`, the OPEN parameter (R7, R83, I8): the time from a command to its response. No rule
reads it, so nothing in the model does; it has no value here (notes/assumptions/7.md). -/
opaque latency : Nat

/-- The text a collaborator renders from a snapshot (R65, I3: any value). Nothing is known of it
and nothing in the model reads it (notes/assumptions/8.md). -/
opaque dumpText : Vector Word 11 → String

end Sys2Proof.Config
end

