-- ==== Sys2Proof/Syntax.lean ====
section
/-! DEFINITION. The commands (30_encoding.md R35, one constructor for each row of the opcode table),
the tags a name resolves to (10_state.md R11 to R15, R18, R19), the reasons a command word is refused
(R42), and the calls of the document that the commands stand for (R38, R44). -/

namespace Sys2Proof

/-- The seven commands of R35. The fields are exactly those of the command word that the command
uses (R39): every value of every field has an encoding, so no further check is needed on one. A
selector that names nothing is a value like any other; its command raises its error (R42). -/
inductive Instr where
  /-- `REG_READ sel` (R54). -/
  | regRead (sel : Selector)
  /-- `REG_WRITE sel, value` (R55). -/
  | regWrite (sel : Selector) (value : Word)
  /-- `IP_MODIFY delta`, the delta a two's-complement `i16` (R58). -/
  | ipModify (delta : Word)
  /-- `IP_READ` (R59). -/
  | ipRead
  /-- `FLAG_SET sel, value` (R61). -/
  | flagSet (sel : Selector) (value : Bool)
  /-- `FLAG_READ sel` (R62). -/
  | flagRead (sel : Selector)
  /-- `DUMP` (R64). -/
  | dump
  deriving DecidableEq, Repr

/-- The eight storage words, named in the order of R11. The order is not architectural (D21). -/
inductive RegWord where
  | ax | bx | cx | dx | sp | bp | si | di
  deriving DecidableEq, Repr

/-- The eight words as a list, in the order of R11. -/
def RegWord.all : List RegWord := [.ax, .bx, .cx, .dx, .sp, .bp, .si, .di]

/-- `AX, BX, CX, DX` have byte views; `SP, BP, SI, DI` are word-only (R12). -/
def RegWord.byteAliased : RegWord → Bool
  | .ax | .bx | .cx | .dx => true
  | .sp | .bp | .si | .di => false

/-- A view of a storage word (R10): bits [7:0], bits [15:8], or all of it. -/
inductive View where
  | low | high | word
  deriving DecidableEq, Repr

/-- What a register selector or a register string resolves to (R53). -/
inductive RegRef where
  /-- One of the 16 names of R13: a storage word and a view of it. -/
  | reg (r : RegWord) (v : View)
  /-- The reserved name `ip` (R15). -/
  | ipName
  /-- No name. -/
  | noName
  deriving DecidableEq, Repr

/-- The two flags (R18). -/
inductive FlagName where
  | sign | zero
  deriving DecidableEq, Repr

/-- What a flag selector or a flag string resolves to (R37). -/
inductive FlagRef where
  | flag (f : FlagName)
  | noName
  deriving DecidableEq, Repr

/-- Why a command word is refused (R42). A word with several of these faults is refused for the
first that R45's pseudocode meets; the spec gives the reasons no other order. -/
inductive DecodeRefusal where
  /-- `RSV != 0`. -/
  | reservedBitsSet
  /-- `OP = 111`. -/
  | reservedOperation
  /-- `SEL != 0` in `IP_MODIFY`, `IP_READ` or `DUMP`. -/
  | unusedSelectorSet
  /-- `DATA != 0` in `REG_READ`, `IP_READ`, `FLAG_READ` or `DUMP`. -/
  | unusedDataSet
  /-- `DATA[15:1] != 0` in `FLAG_SET`. -/
  | flagValueTooWide
  deriving DecidableEq, Repr

/-- One call of the document's interface, or of the flag read that D12 adds beside it (R44). Names
are strings here, and a value or a delta is a number that may lie outside 16 bits (I9, R44). -/
inductive Call where
  | getRegisterValue (name : String)
  | setNewRegisterValue (name : String) (value : Nat)
  | modifyIp (delta : Int)
  | getIp
  | setFlag (name : String) (value : Bool)
  | getFlag (name : String)
  | diagnosticDump
  deriving DecidableEq, Repr

end Sys2Proof
end

