-- ==== Sys2Proof/WellFormed.lean ====
section
/-! DEFINITION. Well-formedness checks, each a Bool: a command word against the refusal conditions of
R42 (written with masks, apart from the decoder's own field extraction), a resolved register
against R12, and a call of the document against the 16-bit operand ranges of R39 and R44. A value
of `Instr` needs no check: its fields hold exactly what a command word can. -/

namespace Sys2Proof

/-- The operation code is one of the seven of R35, not the reserved `111`. -/
def opAssigned (w : CmdWord) : Bool := w &&& 0x00000007#32 != 0x00000007#32

/-- `RSV = 0` (R42). -/
def rsvZero (w : CmdWord) : Bool := w &&& 0x0000FF00#32 == 0#32

/-- Does the operation take no selector? `IP_MODIFY`, `IP_READ` and `DUMP` (R42). -/
def selUnused (w : CmdWord) : Bool :=
  w &&& 0x00000007#32 == 2#32 || w &&& 0x00000007#32 == 3#32 || w &&& 0x00000007#32 == 6#32

/-- Does the operation take no data? `REG_READ`, `IP_READ`, `FLAG_READ` and `DUMP` (R42). -/
def dataUnused (w : CmdWord) : Bool :=
  w &&& 0x00000007#32 == 0#32 || w &&& 0x00000007#32 == 3#32 || w &&& 0x00000007#32 == 5#32 ||
    w &&& 0x00000007#32 == 6#32

/-- `SEL = 0` where the operation takes none (R42). -/
def selZeroWhereUnused (w : CmdWord) : Bool := !selUnused w || w &&& 0x000000F8#32 == 0#32

/-- `DATA = 0` where the operation takes none (R42). -/
def dataZeroWhereUnused (w : CmdWord) : Bool := !dataUnused w || w &&& 0xFFFF0000#32 == 0#32

/-- `DATA[15:1] = 0` in `FLAG_SET` (R42). -/
def flagValueFits (w : CmdWord) : Bool :=
  w &&& 0x00000007#32 != 4#32 || w &&& 0xFFFE0000#32 == 0#32

/-- A command word that R42 does not refuse. -/
def wellFormedWord (w : CmdWord) : Bool :=
  opAssigned w && rsvZero w && selZeroWhereUnused w && dataZeroWhereUnused w && flagValueFits w

/-- A byte view is taken only of a word that has one (R12). -/
def RegRef.wf : RegRef → Bool
  | .reg r .low | .reg r .high => r.byteAliased
  | .reg _ .word | .ipName | .noName => true

/-- The operand of a call fits the 16-bit `DATA` field: a value is 0 to 0xFFFF and a delta is -32768
to 32767 (R39, R44). A wider one is not expressible as a command (I9). -/
def Call.wf : Call → Bool
  | .setNewRegisterValue _ value => decide (value ≤ 0xFFFF)
  | .modifyIp delta => decide (-32768 ≤ delta) && decide (delta ≤ 32767)
  | .getRegisterValue _ | .getIp | .setFlag _ _ | .getFlag _ | .diagnosticDump => true

end Sys2Proof
end

