-- ==== Sys2Proof/Decode.lean ====
section
/-! DEFINITION. The command word (30_encoding.md R34, R35): its fields, the decoder of R45, total on
every 32-bit word, and the encoder, written from the encoding strings of R34 and R44. -/

namespace Sys2Proof

/-- `OP`, bits [2:0] (R34). -/
def opField (w : CmdWord) : BitVec 3 := w.extractLsb' 0 3

/-- `SEL`, bits [7:3] (R34). -/
def selField (w : CmdWord) : Selector := w.extractLsb' 3 5

/-- `RSV`, bits [15:8] (R34). -/
def rsvField (w : CmdWord) : Byte := w.extractLsb' 8 8

/-- `DATA`, bits [31:16] (R34). -/
def dataField (w : CmdWord) : Word := w.extractLsb' 16 16

/-- The flag value of `FLAG_SET` is `DATA[0]` (R39): 1 is true. -/
def flagValue (data : Word) : Bool := data.getLsbD 0

/-- The case analysis of R45 on `OP`, `SEL` and `DATA`, once `RSV` is known to be zero. -/
def decodeFields (op : BitVec 3) (sel : Selector) (data : Word) : Except DecodeRefusal Instr :=
  match op with
  | 0b000#3 => if data ≠ 0#16 then .error .unusedDataSet else .ok (.regRead sel)
  | 0b001#3 => .ok (.regWrite sel data)
  | 0b010#3 => if sel ≠ 0#5 then .error .unusedSelectorSet else .ok (.ipModify data)
  | 0b011#3 =>
    if sel ≠ 0#5 then .error .unusedSelectorSet
    else if data ≠ 0#16 then .error .unusedDataSet else .ok .ipRead
  | 0b100#3 =>
    if data.extractLsb' 1 15 ≠ 0#15 then .error .flagValueTooWide
    else .ok (.flagSet sel (flagValue data))
  | 0b101#3 => if data ≠ 0#16 then .error .unusedDataSet else .ok (.flagRead sel)
  | 0b110#3 =>
    if sel ≠ 0#5 then .error .unusedSelectorSet
    else if data ≠ 0#16 then .error .unusedDataSet else .ok .dump
  | _ => .error .reservedOperation

/-- The decoder of R45. Selectors are not checked here (D6). -/
def decode (w : CmdWord) : Except DecodeRefusal Instr :=
  if rsvField w ≠ 0#8 then .error .reservedBitsSet
  else decodeFields (opField w) (selField w) (dataField w)

/-- A command word from its fields, `RSV` zero: the encoding string
`DDDDDDDDDDDDDDDD RRRRRRRR SSSSS OOO` of R34. -/
def packWord (op : BitVec 3) (sel : Selector) (data : Word) : CmdWord := data ++ 0#8 ++ sel ++ op

/-- The word of a command (R34, R35, R39, R44). -/
def encode : Instr → CmdWord
  | .regRead sel => packWord 0b000#3 sel 0#16
  | .regWrite sel value => packWord 0b001#3 sel value
  | .ipModify delta => packWord 0b010#3 0#5 delta
  | .ipRead => packWord 0b011#3 0#5 0#16
  | .flagSet sel value => packWord 0b100#3 sel (if value then 1#16 else 0#16)
  | .flagRead sel => packWord 0b101#3 sel 0#16
  | .dump => packWord 0b110#3 0#5 0#16

/-- The command word whose low `nbits` bits are those of `w` and whose other bits are zero. The
opcode table numbers the bits of its one 32-bit word as R34 does, so no bytes are reordered; the
block has no memory and no byte order (R25, R27). -/
def tableWord (nbits w : Nat) : CmdWord := BitVec.ofNat 32 (w % 2 ^ nbits)

/-- What the decoder reads from a word given as the opcode table numbers it. -/
def decodeTableWord (nbits w : Nat) : Option Instr :=
  match decode (tableWord nbits w) with
  | .ok i => some i
  | .error _ => none

end Sys2Proof
end

