-- ==== Sys2Proof/Machine/State.lean ====
section
/-! DEFINITION. The state: the block's eleven components (10_state.md R11, R16, R18, R23), the command
stream of its one driver and the responses it has given (R30, R40, R84), and the reasons a step can
stop. -/

namespace Sys2Proof.Machine

/-- The outcome a response reports (30_encoding.md R41, 60_exceptions.md R67). -/
inductive ErrorKind where
  /-- The command succeeded. -/
  | none
  /-- The register name is not in the closed set (R68). -/
  | unknownRegister
  /-- The flag name is not in the closed set (R69). -/
  | unknownFlag
  /-- A write of `ip` through the register path (R70). -/
  | invalidOperation
  deriving DecidableEq, Repr

/-- The block's answer to one command (R40): an error kind and a 16-bit result or, for `DUMP`, which
has error kind `None`, a snapshot of eleven words (R64). -/
inductive Response where
  | reply (err : ErrorKind) (result : Word)
  | snapshot (words : Vector Word 11)
  deriving DecidableEq, Repr

/-- The document's ProcessorState: the block's whole state, eleven components (R23). -/
structure Block where
  /-- `x[AX]` (R11). -/
  ax : Word
  /-- `x[BX]` (R11). -/
  bx : Word
  /-- `x[CX]` (R11). -/
  cx : Word
  /-- `x[DX]` (R11). -/
  dx : Word
  /-- `x[SP]`, word-only (R11, R12). -/
  sp : Word
  /-- `x[BP]`, word-only (R11, R12). -/
  bp : Word
  /-- `x[SI]`, word-only (R11, R12). -/
  si : Word
  /-- `x[DI]`, word-only (R11, R12). -/
  di : Word
  /-- The instruction pointer, stored as bits and read as signed (R16). -/
  ip : Word
  /-- `flag[SIGN]` (R18). -/
  sign : Bool
  /-- `flag[ZERO]` (R18). -/
  zero : Bool
  deriving DecidableEq, Repr

/-- The machine. `block` is all the state the spec gives; the other two fields are the model's own
and hold the block's interface: what its one driver has issued and not yet had answered, and what it
has been answered (notes/assumptions/1.md). No command reads either. -/
structure State where
  block : Block
  /-- The driver's commands, the next one first (R30, R84). -/
  commands : List CmdWord
  /-- The responses given so far, the first one first (R40). -/
  responses : List Response
  deriving DecidableEq, Repr

/-- There is no fault: "Three error kinds, all caller-input errors" (R67), each of them a response
after which the block accepts the next command (R71), and no trap (R74). No step raises one. -/
inductive Fault where
  deriving DecidableEq, Repr

/-- Why a command gets no step. -/
inductive Refusal where
  /-- Raised by an arm of `exec` whose command has no meaning yet. No arm does. Safe. -/
  | notModelled (mnemonic : String)
  /-- Raised by `step` for a command word that R42 refuses: "a model must give it no step (neither a
  state change nor a response)". Safe: nothing can be proved of what follows such a word. -/
  | reservedWord (why : DecodeRefusal)
  deriving DecidableEq, Repr

/-- The block right after reset: every component zero or false (R24, R79). -/
def Block.reset : Block where
  ax := 0x0000#16
  bx := 0x0000#16
  cx := 0x0000#16
  dx := 0x0000#16
  sp := 0x0000#16
  bp := 0x0000#16
  si := 0x0000#16
  di := 0x0000#16
  ip := 0x0000#16
  sign := false
  zero := false

/-- The machine right after reset: the block of R24, no command issued and no response given
(notes/assumptions/1.md for these two). -/
def State.reset : State where
  block := Block.reset
  commands := []
  responses := []

end Sys2Proof.Machine
end

