-- ==== Sys2Proof/Machine/Ops.lean ====
section
/-! DEFINITION. The named operations every meaning is written with: the six operations of one register
cell (40_register_cell.md), the storage words by name, giving a response, raising an error, and
taking the next command of the stream. -/

namespace Sys2Proof.Machine

/-- `get()` (R46). -/
def cellGet (c : Word) : Word := c

/-- `set(v)`: the cell afterwards (R47). -/
def cellSet (_c v : Word) : Word := v

/-- `get_low()`: bits [7:0] (R48). -/
def cellGetLow (c : Word) : Byte := c.extractLsb' 0 8

/-- `get_high()`: bits [15:8] (R49). -/
def cellGetHigh (c : Word) : Byte := c.extractLsb' 8 8

/-- `set_low(v)`: the cell afterwards, `c[15:8] ++ v` (R50). -/
def cellSetLow (c : Word) (v : Byte) : Word := cellGetHigh c ++ v

/-- `set_high(v)`: the cell afterwards, `v ++ c[7:0]` (R51). -/
def cellSetHigh (c : Word) (v : Byte) : Word := v ++ cellGetLow c

/-- `zext_16` of a byte (R8). -/
def zeroExtend (v : Byte) : Word := v.setWidth 16

/-- A Boolean as a result word: 0x0001 or 0x0000 (R40, R62, R64). -/
def boolWord (b : Bool) : Word := if b then 0x0001#16 else 0x0000#16

/-- `x[r]` (R9). -/
def readWord (b : Block) : RegWord → Word
  | .ax => b.ax
  | .bx => b.bx
  | .cx => b.cx
  | .dx => b.dx
  | .sp => b.sp
  | .bp => b.bp
  | .si => b.si
  | .di => b.di

/-- `x[r] <- v` (R9). -/
def writeWord (b : Block) (r : RegWord) (v : Word) : Block :=
  match r with
  | .ax => { b with ax := v }
  | .bx => { b with bx := v }
  | .cx => { b with cx := v }
  | .dx => { b with dx := v }
  | .sp => { b with sp := v }
  | .bp => { b with bp := v }
  | .si => { b with si := v }
  | .di => { b with di := v }

/-- The code of an error kind in a response word (R41). -/
def errorCode : ErrorKind → BitVec 2
  | .none => 0b00#2
  | .unknownRegister => 0b01#2
  | .unknownFlag => 0b10#2
  | .invalidOperation => 0b11#2

/-- The response word of R40: `ERR` in bits [17:16], `RESULT` in bits [15:0], bits [31:18] zero. A
snapshot has no such word. -/
def responseWord : Response → Option (BitVec 32)
  | .reply err result => some (0#14 ++ errorCode err ++ result)
  | .snapshot _ => none

/-- The command ends: the block is now `b` and the response `r` is given. -/
def answer (b : Block) (r : Response) (s : State) : Host.Outcome State Fault Refusal :=
  .next { s with block := b, responses := s.responses ++ [r] }

/-- `respond(result)` of R9, the block now being `b`: error kind `None` and the given result. -/
def respond (b : Block) (result : Word) (s : State) : Host.Outcome State Fault Refusal :=
  answer b (.reply .none result) s

/-- `raise K` of R9 and R71: the response carries the kind and a zero result, and no state of the
block changes. This is all that an error does: no trap is taken and none is returned from (R74,
R75). -/
def raiseError (k : ErrorKind) (s : State) : Host.Outcome State Fault Refusal :=
  answer s.block (.reply k 0x0000#16) s

/-- The next command of the stream and the machine with it taken off (R30). -/
def fetch (s : State) : Option (CmdWord × State) :=
  match s.commands with
  | [] => none
  | w :: rest => some (w, { s with commands := rest })

/-- With no command issued nothing happens: the block changes nothing on its own (R17, R23;
notes/assumptions/2.md). -/
def idle (s : State) : Host.Outcome State Fault Refusal := .next s

end Sys2Proof.Machine
end

