-- ==== Sys2Proof/Machine/Operands.lean ====
section
/-! DEFINITION. The operand forms: a register selector resolved to a storage word and a view (R36,
R53), a flag selector resolved to a flag (R37), and a view read and written through the cell
operations (R54, R55). -/

namespace Sys2Proof.Machine

/-- `resolveReg` of R53, with the codes of R36. -/
def resolveReg (sel : Selector) : RegRef :=
  match sel with
  | 0#5 => .reg .ax .low
  | 1#5 => .reg .cx .low
  | 2#5 => .reg .dx .low
  | 3#5 => .reg .bx .low
  | 4#5 => .reg .ax .high
  | 5#5 => .reg .cx .high
  | 6#5 => .reg .dx .high
  | 7#5 => .reg .bx .high
  | 8#5 => .reg .ax .word
  | 9#5 => .reg .cx .word
  | 10#5 => .reg .dx .word
  | 11#5 => .reg .bx .word
  | 12#5 => .reg .sp .word
  | 13#5 => .reg .bp .word
  | 14#5 => .reg .si .word
  | 15#5 => .reg .di .word
  | 16#5 => .ipName
  | _ => .noName

/-- The flag selectors of R37. -/
def resolveFlag (sel : Selector) : FlagRef :=
  match sel with
  | 0#5 => .flag .sign
  | 1#5 => .flag .zero
  | _ => .noName

/-- What a read of a view of a cell answers: a byte view zero-extended (R54). -/
def readView (c : Word) : View → Word
  | .low => zeroExtend (cellGetLow c)
  | .high => zeroExtend (cellGetHigh c)
  | .word => cellGet c

/-- The low byte of a written value, all that a byte view takes of it (R39, R55). -/
def truncate (v : Word) : Byte := v.extractLsb' 0 8

/-- The cell after a write of `v` to a view of it (R55). -/
def writeView (c : Word) (view : View) (v : Word) : Word :=
  match view with
  | .low => cellSetLow c (truncate v)
  | .high => cellSetHigh c (truncate v)
  | .word => cellSet c v

/-- The block after a write of `v` to a view of the word `r` (R55). -/
def writeReg (b : Block) (r : RegWord) (view : View) (v : Word) : Block :=
  writeWord b r (writeView (readWord b r) view v)

end Sys2Proof.Machine
end

