-- ==== Sys2Proof/Machine/Flags.lean ====
section
/-! DEFINITION. Flag storage (43_flags.md): two independent Booleans read and written by name. No
operation computes a flag (10_state.md R20): there is no other flag rule to write down. -/

namespace Sys2Proof.Machine

/-- `flag[f]` (R9). -/
def readFlag (b : Block) : FlagName → Bool
  | .sign => b.sign
  | .zero => b.zero

/-- `flag[f] <- v` (R9). -/
def writeFlag (b : Block) (f : FlagName) (v : Bool) : Block :=
  match f with
  | .sign => { b with sign := v }
  | .zero => { b with zero := v }

end Sys2Proof.Machine
end

