-- ==== Sys2Proof/Machine/Diagnostic.lean ====
section
/-! DEFINITION. `DUMP` (44_diagnostic.md). -/

namespace Sys2Proof.Machine

/-- The snapshot of R64: ax, bx, cx, dx, sp, bp, si, di, ip, then sign and zero as 0 or 1. -/
def snapshotOf (b : Block) : Vector Word 11 :=
  #v[b.ax, b.bx, b.cx, b.dx, b.sp, b.bp, b.si, b.di, b.ip,
    boolWord (readFlag b .sign), boolWord (readFlag b .zero)]

/-- `DUMP` (R64): purely observational (R66). -/
def execDump (s : State) : Host.Outcome State Fault Refusal :=
  answer s.block (.snapshot (snapshotOf s.block)) s

end Sys2Proof.Machine
end

