-- ==== Sys2Proof/Machine/FlagAccess.lean ====
section
/-! DEFINITION. `FLAG_SET` and `FLAG_READ` (43_flags.md). -/

namespace Sys2Proof.Machine

/-- `FLAG_SET sel, value` (R61). -/
def execFlagSet (sel : Selector) (value : Bool) (s : State) : Host.Outcome State Fault Refusal :=
  match resolveFlag sel with
  | .flag f => respond (writeFlag s.block f value) 0x0000#16 s
  | .noName => raiseError .unknownFlag s

/-- `FLAG_READ sel` (R62). -/
def execFlagRead (sel : Selector) (s : State) : Host.Outcome State Fault Refusal :=
  match resolveFlag sel with
  | .flag f => respond s.block (boolWord (readFlag s.block f)) s
  | .noName => raiseError .unknownFlag s

end Sys2Proof.Machine
end

