-- ==== Sys2Proof/Machine/InstructionPointer.lean ====
section
/-! DEFINITION. `IP_MODIFY` and `IP_READ` (42_ip.md). -/

namespace Sys2Proof.Machine

/-- `ip + d` modulo 2^16 (R58): wrapping signed addition has the same bits. -/
def adjustIp (ip d : Word) : Word := ip + d

/-- `IP_MODIFY delta` (R58). -/
def execIpModify (delta : Word) (s : State) : Host.Outcome State Fault Refusal :=
  respond { s.block with ip := adjustIp s.block.ip delta } 0x0000#16 s

/-- `IP_READ` (R59): the bits of `ip`, which the caller reads as `i16`. -/
def execIpRead (s : State) : Host.Outcome State Fault Refusal := respond s.block s.block.ip s

end Sys2Proof.Machine
end

