-- ==== Sys2Proof/Machine/RegisterAccess.lean ====
section
/-! DEFINITION. `REG_READ` and `REG_WRITE` (41_register_access.md). -/

namespace Sys2Proof.Machine

/-- `REG_READ sel` (R54). The name `ip` is as unknown to a read as any other string outside the 16
(D10). -/
def execRegRead (sel : Selector) (s : State) : Host.Outcome State Fault Refusal :=
  match resolveReg sel with
  | .reg r view => respond s.block (readView (readWord s.block r) view) s
  | .ipName => raiseError .unknownRegister s
  | .noName => raiseError .unknownRegister s

/-- `REG_WRITE sel, value` (R55). The name alone is checked, `ip` first (R72). -/
def execRegWrite (sel : Selector) (value : Word) (s : State) : Host.Outcome State Fault Refusal :=
  match resolveReg sel with
  | .ipName => raiseError .invalidOperation s
  | .noName => raiseError .unknownRegister s
  | .reg r view => respond (writeReg s.block r view value) 0x0000#16 s

end Sys2Proof.Machine
end

