-- ==== Sys2Proof/Machine/Dispatch.lean ====
section
/-! DEFINITION. One arm for each command of the opcode table, each one call of its meaning. -/

namespace Sys2Proof.Machine

/-- What a command does. -/
def exec (i : Instr) (s : State) : Host.Outcome State Fault Refusal :=
  match i with
  | .regRead sel => Sys2Proof.Machine.execRegRead sel s
  | .regWrite sel value => Sys2Proof.Machine.execRegWrite sel value s
  | .ipModify delta => Sys2Proof.Machine.execIpModify delta s
  | .ipRead => Sys2Proof.Machine.execIpRead s
  | .flagSet sel value => Sys2Proof.Machine.execFlagSet sel value s
  | .flagRead sel => Sys2Proof.Machine.execFlagRead sel s
  | .dump => Sys2Proof.Machine.execDump s

end Sys2Proof.Machine
end

