-- ==== Sys2Proof/Machine/Step.lean ====
section
/-! DEFINITION. One step: the next command of the stream is taken, decoded and carried out (R30), or
refused (R42). -/

namespace Sys2Proof.Machine

/-- A command word carried out: its command's meaning, or no step at all for a refused word (R42,
R72). -/
def execWord (w : CmdWord) (s : State) : Host.Outcome State Fault Refusal :=
  match decode w with
  | .ok i => exec i s
  | .error why => .refused (.reservedWord why)

/-- One step of the machine: one whole command (R29, R30), or nothing when none is issued. -/
def step (s : State) : Host.Outcome State Fault Refusal :=
  match fetch s with
  | none => idle s
  | some (w, s') => execWord w s'

/-- `s` with the command word of `w` issued as the driver's next command, in front of any it has
issued already (notes/assumptions/6.md). -/
def State.withFetchWord (s : State) (nbits w : Nat) : State :=
  { s with commands := tableWord nbits w :: s.commands }

end Sys2Proof.Machine
end

