-- ==== Sys2Proof/Machine/Document.lean ====
section
/-! DEFINITION. The string-level contract, which the spec keeps beside the binary encoding as normative
(00_scope.md R6): the names (10_state.md R13 to R15, R19), the string boundary that turns a name into
a selector (R38), and the document's operations, with the flag read that the spec adds (D12), keyed by
strings and written without selectors or command words. Names are compared as strings, character for character (R14, R19;
notes/assumptions/10.md). -/

namespace Sys2Proof.Machine

/-- The 16 register names (R13). -/
def registerNames : List String :=
  ["al", "ah", "ax", "bl", "bh", "bx", "cl", "ch", "cx", "dl", "dh", "dx", "si", "di", "bp", "sp"]

/-- The two flag names (R19). -/
def flagNames : List String := ["sign", "zero"]

/-- The name resolution of R53 on strings, by the table of R13. -/
def resolveRegName (name : String) : RegRef :=
  match name with
  | "al" => .reg .ax .low
  | "ah" => .reg .ax .high
  | "ax" => .reg .ax .word
  | "bl" => .reg .bx .low
  | "bh" => .reg .bx .high
  | "bx" => .reg .bx .word
  | "cl" => .reg .cx .low
  | "ch" => .reg .cx .high
  | "cx" => .reg .cx .word
  | "dl" => .reg .dx .low
  | "dh" => .reg .dx .high
  | "dx" => .reg .dx .word
  | "sp" => .reg .sp .word
  | "bp" => .reg .bp .word
  | "si" => .reg .si .word
  | "di" => .reg .di .word
  | "ip" => .ipName
  | _ => .noName

/-- The flag names resolved (R19). -/
def resolveFlagName (name : String) : FlagRef :=
  match name with
  | "sign" => .flag .sign
  | "zero" => .flag .zero
  | _ => .noName

/-- The register selector of a string (R36, R38): a string that is no name becomes 31. -/
def regSelector (name : String) : Selector :=
  match name with
  | "al" => 0#5
  | "cl" => 1#5
  | "dl" => 2#5
  | "bl" => 3#5
  | "ah" => 4#5
  | "ch" => 5#5
  | "dh" => 6#5
  | "bh" => 7#5
  | "ax" => 8#5
  | "cx" => 9#5
  | "dx" => 10#5
  | "bx" => 11#5
  | "sp" => 12#5
  | "bp" => 13#5
  | "si" => 14#5
  | "di" => 15#5
  | "ip" => 16#5
  | _ => 31#5

/-- The flag selector of a string (R37, R38): a string that is no name becomes 31. -/
def flagSelector (name : String) : Selector :=
  match name with
  | "sign" => 0#5
  | "zero" => 1#5
  | _ => 31#5

/-- The command of a call (R38, R44). An operand wider than 16 bits keeps its low 16; `callWord`
refuses such a call. -/
def callInstr : Call → Instr
  | .getRegisterValue name => .regRead (regSelector name)
  | .setNewRegisterValue name value => .regWrite (regSelector name) (BitVec.ofNat 16 value)
  | .modifyIp delta => .ipModify (BitVec.ofInt 16 delta)
  | .getIp => .ipRead
  | .setFlag name value => .flagSet (flagSelector name) value
  | .getFlag name => .flagRead (flagSelector name)
  | .diagnosticDump => .dump

/-- The command word of a call: "every document-level call has exactly one command" (R38), but for an
operand that does not fit 16 bits, which no command expresses (I9). -/
def callWord (c : Call) : Option CmdWord := if c.wf then some (encode (callInstr c)) else none

/-- `get_register_value(name)` (R54). That `ip` is read as any unknown string is decision D10. -/
def docGetRegister (name : String) (b : Block) : Except ErrorKind Word :=
  match name with
  | "al" => .ok (zeroExtend (cellGetLow b.ax))
  | "ah" => .ok (zeroExtend (cellGetHigh b.ax))
  | "ax" => .ok (cellGet b.ax)
  | "bl" => .ok (zeroExtend (cellGetLow b.bx))
  | "bh" => .ok (zeroExtend (cellGetHigh b.bx))
  | "bx" => .ok (cellGet b.bx)
  | "cl" => .ok (zeroExtend (cellGetLow b.cx))
  | "ch" => .ok (zeroExtend (cellGetHigh b.cx))
  | "cx" => .ok (cellGet b.cx)
  | "dl" => .ok (zeroExtend (cellGetLow b.dx))
  | "dh" => .ok (zeroExtend (cellGetHigh b.dx))
  | "dx" => .ok (cellGet b.dx)
  | "sp" => .ok (cellGet b.sp)
  | "bp" => .ok (cellGet b.bp)
  | "si" => .ok (cellGet b.si)
  | "di" => .ok (cellGet b.di)
  | _ => .error .unknownRegister

/-- `set_new_register_value(name, value)` (R55): a byte name takes the value's low byte. -/
def docSetRegister (name : String) (value : Word) (b : Block) : Except ErrorKind Block :=
  match name with
  | "ip" => .error .invalidOperation
  | "al" => .ok { b with ax := cellSetLow b.ax (value.setWidth 8) }
  | "ah" => .ok { b with ax := cellSetHigh b.ax (value.setWidth 8) }
  | "ax" => .ok { b with ax := cellSet b.ax value }
  | "bl" => .ok { b with bx := cellSetLow b.bx (value.setWidth 8) }
  | "bh" => .ok { b with bx := cellSetHigh b.bx (value.setWidth 8) }
  | "bx" => .ok { b with bx := cellSet b.bx value }
  | "cl" => .ok { b with cx := cellSetLow b.cx (value.setWidth 8) }
  | "ch" => .ok { b with cx := cellSetHigh b.cx (value.setWidth 8) }
  | "cx" => .ok { b with cx := cellSet b.cx value }
  | "dl" => .ok { b with dx := cellSetLow b.dx (value.setWidth 8) }
  | "dh" => .ok { b with dx := cellSetHigh b.dx (value.setWidth 8) }
  | "dx" => .ok { b with dx := cellSet b.dx value }
  | "sp" => .ok { b with sp := cellSet b.sp value }
  | "bp" => .ok { b with bp := cellSet b.bp value }
  | "si" => .ok { b with si := cellSet b.si value }
  | "di" => .ok { b with di := cellSet b.di value }
  | _ => .error .unknownRegister

/-- `modify_ip(delta)` (R58) on the signed readings: the exact sum, wrapped into 16 bits. -/
def docModifyIp (delta : Int) (b : Block) : Block :=
  { b with ip := BitVec.ofInt 16 (b.ip.toInt + delta) }

/-- `get_ip()` (R59), signed. -/
def docGetIp (b : Block) : Int := b.ip.toInt

/-- `set_flag(name, value)` (R61). -/
def docSetFlag (name : String) (value : Bool) (b : Block) : Except ErrorKind Block :=
  match name with
  | "sign" => .ok { b with sign := value }
  | "zero" => .ok { b with zero := value }
  | _ => .error .unknownFlag

/-- The flag read by string (R62). It is no operation of the document: the spec adds it (D12). -/
def docGetFlag (name : String) (b : Block) : Except ErrorKind Bool :=
  match name with
  | "sign" => .ok b.sign
  | "zero" => .ok b.zero
  | _ => .error .unknownFlag

end Sys2Proof.Machine
end

