-- ==== Sys2Proof/Machine/Assembler.lean ====
section
/-! DEFINITION. The assembler syntax of R44: one line, its mnemonic and its operands, read as a call of
the document and from there as a command word. What R44 leaves open of the text (blanks, letter
case of hexadecimal digits, empty operands) is fixed in notes/assumptions/11.md. -/

namespace Sys2Proof.Machine

/-- A blank: a space or a tab. -/
def isBlank (c : Char) : Bool := c == ' ' || c == '\t'

/-- Blanks at both ends taken off. -/
def trimBlanks (cs : List Char) : List Char :=
  ((cs.dropWhile isBlank).reverse.dropWhile isBlank).reverse

/-- The pieces between commas: one more than there are commas. -/
def splitCommas : List Char → List (List Char)
  | [] => [[]]
  | c :: cs =>
    if c == ',' then [] :: splitCommas cs
    else
      match splitCommas cs with
      | [] => [[c]]
      | piece :: pieces => (c :: piece) :: pieces

/-- The value of a digit in base 10 or 16. -/
def digitValue (base : Nat) (c : Char) : Option Nat :=
  let v :=
    if '0' ≤ c ∧ c ≤ '9' then c.toNat - '0'.toNat
    else if 'a' ≤ c ∧ c ≤ 'f' then c.toNat - 'a'.toNat + 10
    else if 'A' ≤ c ∧ c ≤ 'F' then c.toNat - 'A'.toNat + 10
    else base
  if v < base then some v else none

/-- Digits read on from the value `acc`. -/
def readDigits (base : Nat) : List Char → Nat → Option Nat
  | [], acc => some acc
  | c :: cs, acc =>
    match digitValue base c with
    | none => none
    | some d => readDigits base cs (acc * base + d)

/-- A hexadecimal number, `0x` and at least one digit (R44). -/
def readHex : List Char → Option Nat
  | '0' :: 'x' :: c :: cs => readDigits 16 (c :: cs) 0
  | _ => none

/-- A decimal number, at least one digit (R44). -/
def readDecimal : List Char → Option Nat
  | [] => none
  | c :: cs => readDigits 10 (c :: cs) 0

/-- A `REG_WRITE` value: decimal or hexadecimal, 0 to 0xFFFF (R44). -/
def readValue (cs : List Char) : Option Nat :=
  match (readHex cs).or (readDecimal cs) with
  | some v => if v ≤ 0xFFFF then some v else none
  | none => none

/-- An `IP_MODIFY` delta: decimal -32768 to 32767, or the 16-bit pattern 0x0000 to 0xFFFF (R44). -/
def readDelta (cs : List Char) : Option Int :=
  match cs with
  | '-' :: ds =>
    match readDecimal ds with
    | some v => if v ≤ 32768 then some (-(v : Int)) else none
    | none => none
  | _ =>
    match readHex cs with
    | some v => if v ≤ 0xFFFF then some (BitVec.ofNat 16 v).toInt else none
    | none =>
      match readDecimal cs with
      | some v => if v ≤ 32767 then some (v : Int) else none
      | none => none

/-- A `FLAG_SET` value: `0`, `1`, `false` or `true` (R44). -/
def readFlagValue (cs : List Char) : Option Bool :=
  if cs = ['0'] ∨ cs = "false".toList then some false
  else if cs = ['1'] ∨ cs = "true".toList then some true
  else none

/-- A name: any operand that is not empty; one that is in no table becomes selector 31 (R38, R44). -/
def readName (cs : List Char) : Option String := if cs = [] then none else some (String.ofList cs)

/-- A mnemonic and its operands as a call (the table of R44). -/
def readCall (mnemonic : String) (operands : List (List Char)) : Option Call :=
  match mnemonic, operands with
  | "REG_READ", [r] => (readName r).map .getRegisterValue
  | "REG_WRITE", [r, v] =>
    match readName r, readValue v with
    | some name, some value => some (.setNewRegisterValue name value)
    | _, _ => none
  | "IP_MODIFY", [d] => (readDelta d).map .modifyIp
  | "IP_READ", [] => some .getIp
  | "FLAG_SET", [f, v] =>
    match readName f, readFlagValue v with
    | some name, some value => some (.setFlag name value)
    | _, _ => none
  | "FLAG_READ", [f] => (readName f).map .getFlag
  | "DUMP", [] => some .diagnosticDump
  | _, _ => none

/-- A line of text as a call: the mnemonic up to the first blank, then operands separated by commas
(R44). -/
def readLine (line : String) : Option Call :=
  let cs := trimBlanks line.toList
  let mnemonic := cs.takeWhile (fun c => !isBlank c)
  let rest := trimBlanks (cs.dropWhile (fun c => !isBlank c))
  let operands := if rest = [] then [] else (splitCommas rest).map trimBlanks
  readCall (String.ofList mnemonic) operands

/-- The command word of a line of assembler text (R44). -/
def assembleLine (line : String) : Option CmdWord :=
  match readLine line with
  | some call => callWord call
  | none => none

end Sys2Proof.Machine
end

