-- ==== Sys2Proof/Machine/Instances.lean ====
section
/-! DEFINITION. Several instances side by side (60_exceptions.md R77): each is a machine of its own, so
a list of states; a command is issued to one of them. -/

namespace Sys2Proof.Machine

/-- A step of instance `k`, the others left as they are (R77). An index that names no instance steps
nothing. -/
def stepInstance (k : Nat) (sys : List State) : Host.Outcome (List State) Fault Refusal :=
  match sys[k]? with
  | none => .next sys
  | some s =>
    match step s with
    | .next s' => .next (sys.set k s')
    | .fault f => .fault f
    | .refused r => .refused r

end Sys2Proof.Machine
end

