-- ==== Sys2Proof/Safety.lean ====
section
/-! DEFINITION. The terms claims are made in: runs of a command stream, which runs are safe, what a
command answers, and the form every response has. -/

namespace Sys2Proof.Machine

/-- `n` steps, stopping at the first that has no next state (Host.Core.run at this machine). -/
def run : Nat → State → Host.Outcome State Fault Refusal
  | 0, s => .next s
  | n + 1, s =>
    match step s with
    | .next s' => run n s'
    | .fault f => .fault f
    | .refused r => .refused r

/-- A safe run is one over words that R42 does not refuse: nothing else stops the block. -/
def accepted (s : State) : Bool := s.commands.all wellFormedWord

/-- The command `i` completes in `s` and is answered by `r` alone. -/
def Answers (i : Instr) (s : State) (r : Response) : Prop :=
  ∃ t, exec i s = .next t ∧ t.responses = s.responses ++ [r]

/-- The form of a response (R40, R64): a failed command's result is 0x0000, and the last two words of
a snapshot, the flags, are 0x0000 or 0x0001. -/
def Response.wf : Response → Bool
  | .reply .none _ => true
  | .reply .unknownRegister result => result == 0x0000#16
  | .reply .unknownFlag result => result == 0x0000#16
  | .reply .invalidOperation result => result == 0x0000#16
  | .snapshot words =>
    (words[9] == 0x0000#16 || words[9] == 0x0001#16) &&
      (words[10] == 0x0000#16 || words[10] == 0x0001#16)

/-- Every response given so far has its form. -/
def responsesWf (s : State) : Bool := s.responses.all Response.wf

/-- What a command word adds to `ip`, read off the word itself: `DATA` for `OP = 010`, else nothing
(R34, R35, R58). -/
def ipDelta (w : CmdWord) : Word :=
  if w.extractLsb' 0 3 = 0b010#3 then w.extractLsb' 16 16 else 0#16

/-- The sum of the deltas of a list of command words, modulo 2^16. -/
def ipDeltas : List CmdWord → Word
  | [] => 0#16
  | w :: ws => ipDelta w + ipDeltas ws

/-- Is the word's operation one that can write the block: `REG_WRITE`, `IP_MODIFY` or `FLAG_SET` (R35,
R29)? Read off the word itself. -/
def isWriter (w : CmdWord) : Bool :=
  w.extractLsb' 0 3 == 0b001#3 || w.extractLsb' 0 3 == 0b010#3 || w.extractLsb' 0 3 == 0b100#3

/-- The block without its flags: the eight words and `ip`. -/
def sameButFlags (b b' : Block) : Prop :=
  b.ax = b'.ax ∧ b.bx = b'.bx ∧ b.cx = b'.cx ∧ b.dx = b'.dx ∧
    b.sp = b'.sp ∧ b.bp = b'.bp ∧ b.si = b'.si ∧ b.di = b'.di ∧ b.ip = b'.ip

end Sys2Proof.Machine
end

