-- ==== Sys2Proof/Certificates/Slice0/Obligations.lean ====
section
/-! DEFINITION. The statements for the provers. A docstring names the rule or the section a statement
comes from, and the decision (92_eei_decisions.md) or the log entry where one of its clauses rests on
that. -/

open Sys2Proof Sys2Proof.Machine

/-! ### Reset -/

/-- R24: after reset every component of the block is zero or false, and every name reads 0. -/
def Obligations.ResetReadsZeroEverywhere : Prop :=
  (State.reset.block.ax = 0x0000#16 ∧ State.reset.block.bx = 0x0000#16 ∧
    State.reset.block.cx = 0x0000#16 ∧ State.reset.block.dx = 0x0000#16 ∧
    State.reset.block.sp = 0x0000#16 ∧ State.reset.block.bp = 0x0000#16 ∧
    State.reset.block.si = 0x0000#16 ∧ State.reset.block.di = 0x0000#16 ∧
    State.reset.block.ip = 0x0000#16 ∧ State.reset.block.ip.toInt = 0 ∧
    State.reset.block.sign = false ∧ State.reset.block.zero = false) ∧
  (∀ sel : Selector, sel < 16#5 →
    exec (.regRead sel) State.reset =
      .next { State.reset with responses := State.reset.responses ++ [.reply .none 0x0000#16] })

/-- 10_state.md (R24), 20_memory.md (R30): the response list of the reset state, which is the model's
own field (notes/assumptions/1.md), has well-formed responses only. -/
def Obligations.ResetResponsesWellFormed : Prop := responsesWf State.reset = true

/-- 30_encoding.md (R40), 44_diagnostic.md (R64): a failed command's result is 0x0000 and a snapshot's
flag words are 0 or 1, in every response the machine has given: every step keeps this. -/
def Obligations.StepKeepsResponsesWellFormed : Prop :=
  ∀ s t : State, responsesWf s = true → step s = .next t → responsesWf t = true

/-! ### Encoding -/

/-- 30_encoding.md: no bit of a command is lost: every command decodes from its own word. -/
def Obligations.DecodeOfEncodeIsTheCommand : Prop := ∀ i : Instr, decode (encode i) = .ok i

/-- 30_encoding.md: an accepted word is the word of the command it decodes to, so no two words mean
one command. -/
def Obligations.EncodeOfDecodeIsTheWord : Prop :=
  ∀ (w : CmdWord) (i : Instr), decode w = .ok i → encode i = w

/-- R42: a word is refused exactly under the five conditions of the rule; it then gets no step, and
otherwise it gets one, a selector that names nothing included: such a command raises its error. -/
def Obligations.ReservedWordsGetNoStep : Prop :=
  (∀ (s : State) (w : CmdWord) (rest : List CmdWord), s.commands = w :: rest →
    ((∃ why, step s = .refused why) ↔
      (w.extractLsb' 0 3 = 0b111#3 ∨ w.extractLsb' 8 8 ≠ 0#8 ∨
        (w.extractLsb' 3 5 ≠ 0#5 ∧
          (w.extractLsb' 0 3 = 0b010#3 ∨ w.extractLsb' 0 3 = 0b011#3 ∨ w.extractLsb' 0 3 = 0b110#3)) ∨
        (w.extractLsb' 16 16 ≠ 0#16 ∧
          (w.extractLsb' 0 3 = 0b000#3 ∨ w.extractLsb' 0 3 = 0b011#3 ∨ w.extractLsb' 0 3 = 0b101#3 ∨
            w.extractLsb' 0 3 = 0b110#3)) ∨
        (w.extractLsb' 17 15 ≠ 0#15 ∧ w.extractLsb' 0 3 = 0b100#3))) ∧
    ((∃ why, step s = .refused why) ∨ ∃ t, step s = .next t)) ∧
  (∀ sel : Selector, 17#5 ≤ sel →
    decode (sel.setWidth 32 <<< 3) = .ok (.regRead sel) ∧
      (∀ s, Answers (.regRead sel) s (.reply .unknownRegister 0x0000#16)) ∧
      ∀ v : Word, decode (v.setWidth 32 <<< 16 ||| sel.setWidth 32 <<< 3 ||| 1#32) = .ok (.regWrite sel v) ∧
        ∀ s, Answers (.regWrite sel v) s (.reply .unknownRegister 0x0000#16)) ∧
  (∀ sel : Selector, 2#5 ≤ sel →
    decode (sel.setWidth 32 <<< 3 ||| 5#32) = .ok (.flagRead sel) ∧
      (∀ s, Answers (.flagRead sel) s (.reply .unknownFlag 0x0000#16)) ∧
      ∀ b : Bool, decode ((if b then 0x00010000#32 else 0#32) ||| sel.setWidth 32 <<< 3 ||| 4#32) =
          .ok (.flagSet sel b) ∧
        ∀ s, Answers (.flagSet sel b) s (.reply .unknownFlag 0x0000#16))

/-- The opcode table (opcode_table.json): a word decodes to a row's command exactly when it agrees
with the row's match on the row's mask. -/
def Obligations.OpcodeTableMasksSelectCommands : Prop :=
  ∀ w : CmdWord,
    ((∃ sel, decode w = .ok (.regRead sel)) ↔ w &&& 0xFFFFFF07#32 = 0x00000000#32) ∧
    ((∃ sel v, decode w = .ok (.regWrite sel v)) ↔ w &&& 0x0000FF07#32 = 0x00000001#32) ∧
    ((∃ d, decode w = .ok (.ipModify d)) ↔ w &&& 0x0000FFFF#32 = 0x00000002#32) ∧
    (decode w = .ok .ipRead ↔ w &&& 0xFFFFFFFF#32 = 0x00000003#32) ∧
    ((∃ sel b, decode w = .ok (.flagSet sel b)) ↔ w &&& 0xFFFEFF07#32 = 0x00000004#32) ∧
    ((∃ sel, decode w = .ok (.flagRead sel)) ↔ w &&& 0xFFFFFF07#32 = 0x00000005#32) ∧
    (decode w = .ok .dump ↔ w &&& 0xFFFFFFFF#32 = 0x00000006#32)

/-- 30_encoding.md (the table of R44): the number each command's word is. -/
def Obligations.CommandWordsAreTheTabledNumbers : Prop :=
  (∀ sel : Selector, (encode (.regRead sel)).toNat = sel.toNat * 8) ∧
  (∀ (sel : Selector) (v : Word),
    (encode (.regWrite sel v)).toNat = v.toNat * 65536 + sel.toNat * 8 + 1) ∧
  (∀ d : Word, (encode (.ipModify d)).toNat = d.toNat * 65536 + 2) ∧
  (encode .ipRead).toNat = 3 ∧
  (∀ (sel : Selector) (b : Bool),
    (encode (.flagSet sel b)).toNat = (if b then 1 else 0) * 65536 + sel.toNat * 8 + 4) ∧
  (∀ sel : Selector, (encode (.flagRead sel)).toNat = sel.toNat * 8 + 5) ∧
  (encode .dump).toNat = 6

/-- 95_test_vectors.md: words of every family written out there decode to the commands they stand
for. -/
def Obligations.SpecWordsDecodeAsWritten : Prop :=
  decode 0x00000020#32 = .ok (.regRead 4#5) ∧
  decode 0xBEEF0069#32 = .ok (.regWrite 13#5 0xBEEF#16) ∧
  decode 0xFFF90002#32 = .ok (.ipModify 0xFFF9#16) ∧
  decode 0x00000003#32 = .ok .ipRead ∧
  decode 0x0001000C#32 = .ok (.flagSet 1#5 true) ∧
  decode 0x00000005#32 = .ok (.flagRead 0#5) ∧
  decode 0x00000006#32 = .ok .dump

/-- R41: the four error codes, at their place in the response word (R40: `ERR` in bits [17:16],
`RESULT` in bits [15:0], bits [31:18] zero). -/
def Obligations.ResponseWordHoldsErrorAndResult : Prop :=
  (errorCode .none = 0b00#2 ∧ errorCode .unknownRegister = 0b01#2 ∧
    errorCode .unknownFlag = 0b10#2 ∧ errorCode .invalidOperation = 0b11#2) ∧
  ∀ (k : ErrorKind) (r : Word), ∃ w : BitVec 32, responseWord (.reply k r) = some w ∧
    w.extractLsb' 16 2 = errorCode k ∧ w.extractLsb' 0 16 = r ∧ w.extractLsb' 18 14 = 0#14

/-! ### The step -/

/-- 20_memory.md (R30), 30_encoding.md (R45): a step carries out the command that the next word of
the stream decodes to, with that word taken off the stream, and does nothing else. -/
def Obligations.StepRunsTheDecodedCommand : Prop :=
  ∀ (s : State) (w : CmdWord) (rest : List CmdWord) (i : Instr),
    s.commands = w :: rest → decode w = .ok i → step s = exec i { s with commands := rest }

/-- The model's choice (notes/assumptions/2.md): with no command issued a step changes nothing; the
spec's ground for it is 10_state.md R17, "never changes `ip` on its own". -/
def Obligations.StepWithoutCommandChangesNothing : Prop :=
  ∀ s : State, s.commands = [] → step s = .next s

/-- 30_encoding.md (R40), 60_exceptions.md (R67): every command completes in every state, with exactly
one response, and takes no further command. -/
def Obligations.EveryCommandIsAnsweredOnce : Prop :=
  ∀ (i : Instr) (s : State), ∃ t r,
    exec i s = .next t ∧ t.responses = s.responses ++ [r] ∧ t.commands = s.commands

/-! ### The register cell -/

/-- R46, R47, R48, R49: what the six cell operations' reads give, as numbers, and that a set cell
reads back as it was set. -/
def Obligations.CellReadsWordAndBytes : Prop :=
  ∀ c v : Word, cellGet c = c ∧ cellGet (cellSet c v) = v ∧
    (cellGetLow c).toNat = c.toNat % 256 ∧ (cellGetHigh c).toNat = c.toNat / 256

/-- R50, R51: a byte write replaces its own byte and keeps the other. -/
def Obligations.ByteWriteKeepsTheOtherByte : Prop :=
  ∀ (c : Word) (v : Byte),
    (cellSetLow c v).toNat = c.toNat / 256 * 256 + v.toNat ∧
    (cellSetHigh c v).toNat = v.toNat * 256 + c.toNat % 256 ∧
    cellGetLow (cellSetLow c v) = v ∧ cellGetHigh (cellSetLow c v) = cellGetHigh c ∧
    cellGetHigh (cellSetHigh c v) = v ∧ cellGetLow (cellSetHigh c v) = cellGetLow c

/-- 40_register_cell.md (R52, which the spec derives from R46, R48 and R49): a cell is its high byte
followed by its low byte. -/
def Obligations.CellIsHighByteThenLowByte : Prop :=
  ∀ c : Word, cellGet c = cellGetHigh c ++ cellGetLow c

/-! ### REG_READ and REG_WRITE -/

/-- R54: what `REG_READ` answers for each of the 32 selectors, in every state, with nothing else of the
machine changed; a byte name's result is at most 0x00FF. Selector 16 is decision D10. -/
def Obligations.RegReadAnswersTheNamedView : Prop :=
  (∀ sel : Selector, encode (.regRead sel) = 0#16 ++ 0#8 ++ sel ++ 0b000#3) ∧
  ∀ s : State,
    let answered := fun (v : Word) =>
      (.next { s with responses := s.responses ++ [.reply .none v] } : Host.Outcome State Fault Refusal)
    exec (.regRead 0#5) s = answered (0#8 ++ s.block.ax.extractLsb' 0 8) ∧
    exec (.regRead 1#5) s = answered (0#8 ++ s.block.cx.extractLsb' 0 8) ∧
    exec (.regRead 2#5) s = answered (0#8 ++ s.block.dx.extractLsb' 0 8) ∧
    exec (.regRead 3#5) s = answered (0#8 ++ s.block.bx.extractLsb' 0 8) ∧
    exec (.regRead 4#5) s = answered (0#8 ++ s.block.ax.extractLsb' 8 8) ∧
    exec (.regRead 5#5) s = answered (0#8 ++ s.block.cx.extractLsb' 8 8) ∧
    exec (.regRead 6#5) s = answered (0#8 ++ s.block.dx.extractLsb' 8 8) ∧
    exec (.regRead 7#5) s = answered (0#8 ++ s.block.bx.extractLsb' 8 8) ∧
    exec (.regRead 8#5) s = answered s.block.ax ∧
    exec (.regRead 9#5) s = answered s.block.cx ∧
    exec (.regRead 10#5) s = answered s.block.dx ∧
    exec (.regRead 11#5) s = answered s.block.bx ∧
    exec (.regRead 12#5) s = answered s.block.sp ∧
    exec (.regRead 13#5) s = answered s.block.bp ∧
    exec (.regRead 14#5) s = answered s.block.si ∧
    exec (.regRead 15#5) s = answered s.block.di ∧
    (∀ sel : Selector, 16#5 ≤ sel → exec (.regRead sel) s =
      .next { s with responses := s.responses ++ [.reply .unknownRegister 0x0000#16] }) ∧
    (∀ (sel : Selector) (v : Word), sel < 8#5 → exec (.regRead sel) s = answered v → v ≤ 0x00FF#16)

/-- R55: what `REG_WRITE` writes for each of the 32 selectors and every value, in every state: the named
view of the one word and nothing else; `ip` and a name that is none fail and change no state. -/
def Obligations.RegWriteStoresIntoTheNamedView : Prop :=
  (∀ (sel : Selector) (v : Word), encode (.regWrite sel v) = v ++ 0#8 ++ sel ++ 0b001#3) ∧
  ∀ (s : State) (v : Word),
    let written := fun (b : Block) =>
      (.next { s with block := b, responses := s.responses ++ [.reply .none 0x0000#16] } :
        Host.Outcome State Fault Refusal)
    let failed := fun (k : ErrorKind) =>
      (.next { s with responses := s.responses ++ [.reply k 0x0000#16] } :
        Host.Outcome State Fault Refusal)
    let lo := v.extractLsb' 0 8
    exec (.regWrite 0#5 v) s = written { s.block with ax := s.block.ax.extractLsb' 8 8 ++ lo } ∧
    exec (.regWrite 1#5 v) s = written { s.block with cx := s.block.cx.extractLsb' 8 8 ++ lo } ∧
    exec (.regWrite 2#5 v) s = written { s.block with dx := s.block.dx.extractLsb' 8 8 ++ lo } ∧
    exec (.regWrite 3#5 v) s = written { s.block with bx := s.block.bx.extractLsb' 8 8 ++ lo } ∧
    exec (.regWrite 4#5 v) s = written { s.block with ax := lo ++ s.block.ax.extractLsb' 0 8 } ∧
    exec (.regWrite 5#5 v) s = written { s.block with cx := lo ++ s.block.cx.extractLsb' 0 8 } ∧
    exec (.regWrite 6#5 v) s = written { s.block with dx := lo ++ s.block.dx.extractLsb' 0 8 } ∧
    exec (.regWrite 7#5 v) s = written { s.block with bx := lo ++ s.block.bx.extractLsb' 0 8 } ∧
    exec (.regWrite 8#5 v) s = written { s.block with ax := v } ∧
    exec (.regWrite 9#5 v) s = written { s.block with cx := v } ∧
    exec (.regWrite 10#5 v) s = written { s.block with dx := v } ∧
    exec (.regWrite 11#5 v) s = written { s.block with bx := v } ∧
    exec (.regWrite 12#5 v) s = written { s.block with sp := v } ∧
    exec (.regWrite 13#5 v) s = written { s.block with bp := v } ∧
    exec (.regWrite 14#5 v) s = written { s.block with si := v } ∧
    exec (.regWrite 15#5 v) s = written { s.block with di := v } ∧
    exec (.regWrite 16#5 v) s = failed .invalidOperation ∧
    (∀ sel : Selector, 17#5 ≤ sel → exec (.regWrite sel v) s = failed .unknownRegister)

/-- 41_register_access.md (R57, derived by the spec): the frame of `REG_WRITE`: no flag, not `ip`, no
pending command, and of the eight words at most the one its selector resolves to; where it resolves
to none, none. -/
def Obligations.RegWriteFrame : Prop :=
  ∀ (sel : Selector) (v : Word) (s t : State), exec (.regWrite sel v) s = .next t →
    t.block.ip = s.block.ip ∧ t.block.sign = s.block.sign ∧ t.block.zero = s.block.zero ∧
    t.commands = s.commands ∧
    ∀ r : RegWord, (∀ view, resolveReg sel ≠ .reg r view) → readWord t.block r = readWord s.block r

/-- 41_register_access.md (R56, derived by the spec): the three names of each of ax, bx, cx, dx (with
selectors `n` low, `n + 4` high, `n + 8` word) see one word: the word read is the high byte read
followed by the low byte read, and a write through one byte name leaves the other's reading as it
was. -/
def Obligations.ByteNamesAliasTheirWord : Prop :=
  ∀ n : Selector, n < 4#5 → ∀ s : State,
    (∃ h l : Word, Answers (.regRead (n + 4#5)) s (.reply .none h) ∧
      Answers (.regRead n) s (.reply .none l) ∧
      Answers (.regRead (n + 8#5)) s (.reply .none (h.extractLsb' 0 8 ++ l.extractLsb' 0 8))) ∧
    ∀ (v x y : Word) (t : State),
      (exec (.regWrite n v) s = .next t → Answers (.regRead (n + 4#5)) s (.reply .none x) →
        Answers (.regRead (n + 4#5)) t (.reply .none x) ∧
        Answers (.regRead (n + 8#5)) t (.reply .none (x.extractLsb' 0 8 ++ v.extractLsb' 0 8))) ∧
      (exec (.regWrite (n + 4#5) v) s = .next t → Answers (.regRead n) s (.reply .none y) →
        Answers (.regRead n) t (.reply .none y) ∧
        Answers (.regRead (n + 8#5)) t (.reply .none (v.extractLsb' 0 8 ++ y.extractLsb' 0 8))) ∧
      (exec (.regWrite (n + 8#5) v) s = .next t →
        Answers (.regRead n) t (.reply .none (0#8 ++ v.extractLsb' 0 8)) ∧
        Answers (.regRead (n + 4#5)) t (.reply .none (0#8 ++ v.extractLsb' 8 8)))

/-- 41_register_access.md (R56, derived by the spec): a write to one word changes the reading of no
other word: two register names read alike before and after unless they resolve to one word. -/
def Obligations.WritesReachOneWordOnly : Prop :=
  ∀ (a b : Selector) (r r' : RegWord) (view view' : View) (v x : Word) (s t : State),
    resolveReg a = .reg r view → resolveReg b = .reg r' view' → r ≠ r' →
    exec (.regWrite a v) s = .next t → Answers (.regRead b) s (.reply .none x) →
    Answers (.regRead b) t (.reply .none x)

/-! ### IP_MODIFY and IP_READ -/

/-- R58: `IP_MODIFY` adds its delta modulo 2^16 and changes nothing else; on the signed readings the sum
is reduced by 65536 into range, with no trap and no saturation. (The signed clause is the sentence R58
itself derives; it follows from the first.) -/
def Obligations.IpModifyAddsWithWraparound : Prop :=
  (∀ d : Word, encode (.ipModify d) = d ++ 0#8 ++ 0#5 ++ 0b010#3) ∧
  ∀ (d : Word) (s : State),
    exec (.ipModify d) s =
      .next { s with
        block := { s.block with ip := s.block.ip + d }
        responses := s.responses ++ [.reply .none 0x0000#16] } ∧
    (s.block.ip + d).toInt =
      (if 32767 < s.block.ip.toInt + d.toInt then s.block.ip.toInt + d.toInt - 65536
        else if s.block.ip.toInt + d.toInt < -32768 then s.block.ip.toInt + d.toInt + 65536
        else s.block.ip.toInt + d.toInt)

/-- R59: `IP_READ` answers the bits of `ip` and changes nothing. -/
def Obligations.IpReadAnswersTheInstructionPointer : Prop :=
  encode .ipRead = 0#16 ++ 0#8 ++ 0#5 ++ 0b011#3 ∧
  ∀ s : State, exec .ipRead s =
    .next { s with responses := s.responses ++ [.reply .none s.block.ip] }

/-- 42_ip.md (R60, derived by the spec): any absolute value is reached by the delta `v - ip`. -/
def Obligations.AnyIpIsReachedByOneDelta : Prop :=
  ∀ (v : Word) (s : State), ∃ t, exec (.ipModify (v - s.block.ip)) s = .next t ∧ t.block.ip = v

/-! ### FLAG_SET and FLAG_READ -/

/-- R61: `FLAG_SET` writes the named flag alone; a selector that names no flag, and so any string but
`sign` and `zero`, fails and changes no state. -/
def Obligations.FlagSetWritesTheNamedFlag : Prop :=
  (∀ (sel : Selector) (b : Bool),
    encode (.flagSet sel b) = 0#15 ++ BitVec.ofBool b ++ 0#8 ++ sel ++ 0b100#3) ∧
  ∀ (b : Bool) (s : State),
    exec (.flagSet 0#5 b) s =
      .next { s with block := { s.block with sign := b },
                     responses := s.responses ++ [.reply .none 0x0000#16] } ∧
    exec (.flagSet 1#5 b) s =
      .next { s with block := { s.block with zero := b },
                     responses := s.responses ++ [.reply .none 0x0000#16] } ∧
    (∀ sel : Selector, 2#5 ≤ sel → exec (.flagSet sel b) s =
      .next { s with responses := s.responses ++ [.reply .unknownFlag 0x0000#16] }) ∧
    ∀ name : String, name ≠ "sign" → name ≠ "zero" → exec (callInstr (.setFlag name b)) s =
      .next { s with responses := s.responses ++ [.reply .unknownFlag 0x0000#16] }

/-- R62: `FLAG_READ` answers 0x0001 or 0x0000 for the named flag, fails for a selector that names none,
and changes no state. -/
def Obligations.FlagReadAnswersTheNamedFlag : Prop :=
  (∀ sel : Selector, encode (.flagRead sel) = 0#16 ++ 0#8 ++ sel ++ 0b101#3) ∧
  ∀ s : State,
    exec (.flagRead 0#5) s =
      .next { s with responses := s.responses ++
        [.reply .none (if s.block.sign = true then 0x0001#16 else 0x0000#16)] } ∧
    exec (.flagRead 1#5) s =
      .next { s with responses := s.responses ++
        [.reply .none (if s.block.zero = true then 0x0001#16 else 0x0000#16)] } ∧
    ∀ sel : Selector, 2#5 ≤ sel → exec (.flagRead sel) s =
      .next { s with responses := s.responses ++ [.reply .unknownFlag 0x0000#16] }

/-! ### DUMP -/

/-- R64: `DUMP` answers the eleven words in the order ax, bx, cx, dx, sp, bp, si, di, ip, sign, zero (the
place of the flags is decision D15) and changes nothing. -/
def Obligations.DumpAnswersTheSnapshot : Prop :=
  encode .dump = 0#16 ++ 0#8 ++ 0#5 ++ 0b110#3 ∧
  ∀ s : State, exec .dump s =
    .next { s with responses := s.responses ++ [.snapshot
      #v[s.block.ax, s.block.bx, s.block.cx, s.block.dx, s.block.sp, s.block.bp, s.block.si, s.block.di,
        s.block.ip, if s.block.sign = true then 0x0001#16 else 0x0000#16,
        if s.block.zero = true then 0x0001#16 else 0x0000#16]] }

/-! ### Frames over all commands -/

/-- 20_memory.md (R29), 44_diagnostic.md (R66): the frame of the four reading commands: nothing of the
block changes and no pending command is lost. -/
def Obligations.ReadingCommandsChangeNothing : Prop :=
  ∀ (i : Instr) (s t : State),
    ((∃ sel, i = .regRead sel) ∨ i = .ipRead ∨ (∃ sel, i = .flagRead sel) ∨ i = .dump) →
    exec i s = .next t → t.block = s.block ∧ t.commands = s.commands

/-- 10_state.md (R16, R17): a step that changes `ip` carried out an `IP_MODIFY`, which added its delta and
left every register and flag alone. -/
def Obligations.OnlyIpModifyChangesIp : Prop :=
  ∀ s t : State, step s = .next t → t.block.ip ≠ s.block.ip →
    ∃ (w : CmdWord) (rest : List CmdWord) (d : Word),
      s.commands = w :: rest ∧ decode w = .ok (.ipModify d) ∧
      t.block = { s.block with ip := s.block.ip + d }

/-- 10_state.md (R20): a step that changes a flag carried out a `FLAG_SET` that names it, and the flag
holds the value set; every register and `ip` are as before. -/
def Obligations.OnlyFlagSetChangesFlags : Prop :=
  ∀ s t : State, step s = .next t →
    (t.block.sign ≠ s.block.sign → ∃ (w : CmdWord) (rest : List CmdWord) (b : Bool),
      s.commands = w :: rest ∧ decode w = .ok (.flagSet 0#5 b) ∧ t.block = { s.block with sign := b }) ∧
    (t.block.zero ≠ s.block.zero → ∃ (w : CmdWord) (rest : List CmdWord) (b : Bool),
      s.commands = w :: rest ∧ decode w = .ok (.flagSet 1#5 b) ∧ t.block = { s.block with zero := b })

/-- 41_register_access.md (R55, R57): a step that changes a storage word carried out a `REG_WRITE` whose
selector resolves to that word, and no flag and not `ip` changed. -/
def Obligations.OnlyRegWriteChangesRegisters : Prop :=
  ∀ (s t : State) (r : RegWord), step s = .next t → readWord t.block r ≠ readWord s.block r →
    ∃ (w : CmdWord) (rest : List CmdWord) (sel : Selector) (v : Word) (view : View),
      s.commands = w :: rest ∧ decode w = .ok (.regWrite sel v) ∧ resolveReg sel = .reg r view ∧
      t.block.ip = s.block.ip ∧ t.block.sign = s.block.sign ∧ t.block.zero = s.block.zero

/-- 10_state.md (R23): no hidden state: what a command does to the block and what it answers depend on
the block alone. -/
def Obligations.CommandsDependOnTheBlockAlone : Prop :=
  ∀ (i : Instr) (s s' t : State), s.block = s'.block → exec i s = .next t →
    ∃ t' r, exec i s' = .next t' ∧ t'.block = t.block ∧
      t.responses = s.responses ++ [r] ∧ t'.responses = s'.responses ++ [r]

/-- 20_memory.md (R29): every command but `IP_MODIFY` is idempotent on the block. -/
def Obligations.RepeatingACommandChangesNothingMore : Prop :=
  ∀ (i : Instr) (s t u : State), (∀ d, i ≠ .ipModify d) →
    exec i s = .next t → exec i t = .next u → u.block = t.block

/-- 70_reset_and_hazards.md (R82): a read that follows a write in the stream sees the value written,
through every register name, for both flags and for `ip`. -/
def Obligations.ReadsSeeTheLatestWrite : Prop :=
  ∀ (s : State) (rest : List CmdWord),
    (∀ (sel : Selector) (v : Word), sel < 16#5 →
      s.commands = encode (.regWrite sel v) :: encode (.regRead sel) :: rest →
      ∃ t, run 2 s = .next t ∧ t.commands = rest ∧
        t.responses = s.responses ++ [.reply .none 0x0000#16,
          .reply .none (if sel < 8#5 then 0#8 ++ v.extractLsb' 0 8 else v)]) ∧
    (∀ (sel : Selector) (b : Bool), sel < 2#5 →
      s.commands = encode (.flagSet sel b) :: encode (.flagRead sel) :: rest →
      ∃ t, run 2 s = .next t ∧ t.commands = rest ∧
        t.responses = s.responses ++ [.reply .none 0x0000#16,
          .reply .none (if b = true then 0x0001#16 else 0x0000#16)]) ∧
    (∀ d : Word, s.commands = encode (.ipModify d) :: encode .ipRead :: rest →
      ∃ t, run 2 s = .next t ∧ t.commands = rest ∧
        t.responses = s.responses ++ [.reply .none 0x0000#16, .reply .none (s.block.ip + d)])

/-! ### Errors -/

/-- R68: `UnknownRegister` is the answer of `REG_READ` with selector 16 to 31 and of `REG_WRITE` with
selector 17 to 31, and of nothing else, and its result is 0x0000 (decisions D9, D10, D24). Every
string that is no register name has such a selector, `zz` among them. -/
def Obligations.UnknownRegisterIsRaisedExactlyThere : Prop :=
  (∀ (i : Instr) (s : State) (r : Word),
    Answers i s (.reply .unknownRegister r) ↔
      r = 0x0000#16 ∧ ((∃ sel, i = .regRead sel ∧ 16#5 ≤ sel) ∨
        ∃ sel v, i = .regWrite sel v ∧ 17#5 ≤ sel)) ∧
  ∀ (name : String) (s : State), name ∉ registerNames →
    Answers (callInstr (.getRegisterValue name)) s (.reply .unknownRegister 0x0000#16) ∧
    (name ≠ "ip" → ∀ v : Nat,
      Answers (callInstr (.setNewRegisterValue name v)) s (.reply .unknownRegister 0x0000#16))

/-- R69: `UnknownFlag` is the answer of `FLAG_SET` and `FLAG_READ` with selector 2 to 31, and of nothing
else, and its result is 0x0000 (decisions D9, D24). Every string that is no flag name has such a
selector, `carry` among them. -/
def Obligations.UnknownFlagIsRaisedExactlyThere : Prop :=
  (∀ (i : Instr) (s : State) (r : Word),
    Answers i s (.reply .unknownFlag r) ↔
      r = 0x0000#16 ∧ ((∃ sel b, i = .flagSet sel b ∧ 2#5 ≤ sel) ∨
        ∃ sel, i = .flagRead sel ∧ 2#5 ≤ sel)) ∧
  ∀ (name : String) (s : State), name ∉ flagNames →
    (∀ b : Bool, Answers (callInstr (.setFlag name b)) s (.reply .unknownFlag 0x0000#16)) ∧
    Answers (callInstr (.getFlag name)) s (.reply .unknownFlag 0x0000#16)

/-- R70: `InvalidOperation` is the answer of `REG_WRITE` with selector 16, whatever the value, and of
nothing else; the document's call that writes the string `ip` is such a command. -/
def Obligations.InvalidOperationIsRaisedExactlyThere : Prop :=
  (∀ (i : Instr) (s : State) (r : Word),
    Answers i s (.reply .invalidOperation r) ↔ r = 0x0000#16 ∧ ∃ v, i = .regWrite 16#5 v) ∧
  ∀ (v : Nat) (s : State),
    Answers (callInstr (.setNewRegisterValue "ip" v)) s (.reply .invalidOperation 0x0000#16)

/-- R71: a command answered with an error changed no state of the block, its result is 0x0000, and the
command after it does and answers what it would have done and answered without it. -/
def Obligations.FailedCommandChangesNoState : Prop :=
  ∀ (i : Instr) (s t : State) (k : ErrorKind) (r : Word), k ≠ .none →
    exec i s = .next t → t.responses = s.responses ++ [.reply k r] →
    t = { s with responses := s.responses ++ [.reply k 0x0000#16] } ∧
    ∀ (j : Instr) (u : State), exec j s = .next u →
      ∃ u' q, exec j t = .next u' ∧ u'.block = u.block ∧
        u.responses = s.responses ++ [q] ∧ u'.responses = t.responses ++ [q]

/-! ### The string-level contract -/

/-- 10_state.md (R13, R14, R19): exactly the 16 strings of R13 name a register view, `ip` alone is the
reserved name, exactly two strings name a flag, and only ax, bx, cx and dx have byte views. -/
def Obligations.ExactlyTheListedNamesResolve : Prop :=
  registerNames.length = 16 ∧ registerNames.Nodup ∧
  ∀ name : String,
    ((∃ r view, resolveRegName name = .reg r view) ↔ name ∈ registerNames) ∧
    (resolveRegName name = .ipName ↔ name = "ip") ∧
    ((∃ f, resolveFlagName name = .flag f) ↔ name = "sign" ∨ name = "zero") ∧
    (resolveRegName name).wf = true

/-- 30_encoding.md (R38), 41_register_access.md (R53): the selector of a string resolves to what the
string itself resolves to, on both paths. -/
def Obligations.SelectorsResolveAsTheirStrings : Prop :=
  ∀ name : String, resolveReg (regSelector name) = resolveRegName name ∧
    resolveFlag (flagSelector name) = resolveFlagName name

/-- 30_encoding.md (R38), 93_implementation_defined.md (I9): a call whose operand fits 16 bits has one
command word, which decodes to its command; a call with a wider operand has none. -/
def Obligations.EveryCallHasOneCommandWord : Prop :=
  ∀ c : Call, (c.wf = true → ∃ w, callWord c = some w ∧ decode w = .ok (callInstr c)) ∧
    (c.wf = false → callWord c = none)

/-- 00_scope.md (R6), 30_encoding.md (R38): every command does and answers what the string-keyed operation
beside it does and returns, for every string and every operand that fits. Not the document's own but
decisions of the spec are: the zero result of a command that returns nothing or fails (D9), that
reading `ip` fails with `UnknownRegister` (D10), the whole flag read (D12), and the form of the dump,
eleven words with the flags last (D15, R64). -/
def Obligations.CommandsRefineTheDocumentCalls : Prop :=
  ∀ s : State,
    let answered := fun (b : Block) (k : ErrorKind) (v : Word) =>
      (.next { s with block := b, responses := s.responses ++ [.reply k v] } :
        Host.Outcome State Fault Refusal)
    (∀ name, exec (callInstr (.getRegisterValue name)) s =
      match docGetRegister name s.block with
      | .ok v => answered s.block .none v
      | .error k => answered s.block k 0x0000#16) ∧
    (∀ name value, value < 65536 → exec (callInstr (.setNewRegisterValue name value)) s =
      match docSetRegister name (BitVec.ofNat 16 value) s.block with
      | .ok b => answered b .none 0x0000#16
      | .error k => answered s.block k 0x0000#16) ∧
    (∀ delta : Int, -32768 ≤ delta → delta ≤ 32767 → exec (callInstr (.modifyIp delta)) s =
      answered (docModifyIp delta s.block) .none 0x0000#16) ∧
    (∃ v : Word, exec (callInstr .getIp) s = answered s.block .none v ∧ v.toInt = docGetIp s.block) ∧
    (∀ name value, exec (callInstr (.setFlag name value)) s =
      match docSetFlag name value s.block with
      | .ok b => answered b .none 0x0000#16
      | .error k => answered s.block k 0x0000#16) ∧
    (∀ name, exec (callInstr (.getFlag name)) s =
      match docGetFlag name s.block with
      | .ok v => answered s.block .none (if v = true then 0x0001#16 else 0x0000#16)
      | .error k => answered s.block k 0x0000#16) ∧
    exec (callInstr .diagnosticDump) s =
      .next { s with responses := s.responses ++ [.snapshot
        #v[s.block.ax, s.block.bx, s.block.cx, s.block.dx, s.block.sp, s.block.bp, s.block.si, s.block.di,
          s.block.ip, if s.block.sign = true then 0x0001#16 else 0x0000#16,
          if s.block.zero = true then 0x0001#16 else 0x0000#16]] }

/-- 30_encoding.md (R44): a line of assembler text with a number of R44's ranges, decimal or hexadecimal,
is the call with that number: a `REG_WRITE` line with any name free of blanks and commas, and an
`IP_MODIFY` line, negative deltas and 16-bit patterns included. What R44 leaves open is as
notes/assumptions/11.md chooses: here, that hexadecimal digits may be of either case, digit by digit
(`xs` is any list of characters that lower-cases to the numeral of `v`), and that leading zeros (`z` of
them) are allowed. -/
def Obligations.AssemblerReadsEveryNumeral : Prop :=
  (∀ (name : String) (v z : Nat) (xs : List Char),
    name.toList ≠ [] → (∀ c ∈ name.toList, isBlank c = false ∧ c ≠ ',') → v ≤ 0xFFFF →
    xs.map Char.toLower = List.replicate z '0' ++ Nat.toDigits 16 v →
    readLine ("REG_WRITE " ++ name ++ ", " ++ String.ofList (List.replicate z '0' ++ Nat.toDigits 10 v)) =
      some (.setNewRegisterValue name v) ∧
    readLine ("REG_WRITE " ++ name ++ ", 0x" ++ String.ofList xs) =
      some (.setNewRegisterValue name v) ∧
    readLine ("IP_MODIFY 0x" ++ String.ofList xs) =
      some (.modifyIp (if v < 32768 then (v : Int) else (v : Int) - 65536))) ∧
  (∀ v z : Nat, v ≤ 32767 →
    readLine ("IP_MODIFY " ++ String.ofList (List.replicate z '0' ++ Nat.toDigits 10 v)) =
      some (.modifyIp (v : Int))) ∧
  (∀ v z : Nat, v ≤ 32768 →
    readLine ("IP_MODIFY -" ++ String.ofList (List.replicate z '0' ++ Nat.toDigits 10 v)) =
      some (.modifyIp (-(v : Int))))

/-! ### Runs -/

/-- 20_memory.md (R30), 30_encoding.md (R42): a command stream runs to its end exactly when no word of it
is refused, and then there is one new response for each command, in order: the response at place `k`
is the one that command `k` is answered in the state the first `k` steps lead to. That a refused word
ends the run, so that a stream with one never runs to its end, is the model's choice
(notes/assumptions/4.md): R42 gives such a word no step and does not say what follows it. -/
def Obligations.StreamRunsToItsEndExactlyWhenAccepted : Prop :=
  ∀ s : State,
    ((∃ t, run s.commands.length s = .next t) ↔ accepted s = true) ∧
    ∀ t, run s.commands.length s = .next t →
      t.commands = [] ∧ ∃ rs, t.responses = s.responses ++ rs ∧ rs.length = s.commands.length ∧
        ∀ (k : Nat) (w : CmdWord), s.commands[k]? = some w →
          ∃ u i r, run k s = .next u ∧ decode w = .ok i ∧ Answers i u r ∧ rs[k]? = some r

/-- 42_ip.md (R58, R60), 10_state.md (R17): after any run `ip` is what it was, plus the deltas of the
`IP_MODIFY` words among the commands carried out, modulo 2^16, whatever the other commands are. -/
def Obligations.RunMovesIpByItsDeltas : Prop :=
  ∀ (n : Nat) (s t : State), run n s = .next t →
    t.block.ip = s.block.ip + ipDeltas (s.commands.take n)

/-- 20_memory.md (R29), 44_diagnostic.md (R66): the reading commands may be left out of a stream: the
writing commands alone end with the same block. -/
def Obligations.ReadsCanBeLeftOutOfARun : Prop :=
  ∀ s t : State, run s.commands.length s = .next t →
    ∃ u, run (s.commands.filter isWriter).length { s with commands := s.commands.filter isWriter } =
      .next u ∧ u.block = t.block

/-- 10_state.md (R20), 43_flags.md: the flags decide nothing: two machines that differ only in their
flags (and in the responses given) run one stream alike, and their words and `ip` stay equal. -/
def Obligations.FlagsNeverReachRegistersOrIp : Prop :=
  ∀ (n : Nat) (s s' t : State), sameButFlags s.block s'.block → s.commands = s'.commands →
    run n s = .next t →
    ∃ t', run n s' = .next t' ∧ sameButFlags t.block t'.block ∧ t.commands = t'.commands

/-- 60_exceptions.md (R77): a step of one instance leaves every other instance as it was. -/
def Obligations.InstancesShareNothing : Prop :=
  ∀ (k j : Nat) (sys sys' : List State), stepInstance k sys = .next sys' →
    sys'.length = sys.length ∧ (j ≠ k → sys'[j]? = sys[j]?) ∧
    ∀ s, sys[k]? = some s → ∃ t, step s = .next t ∧ sys'[k]? = some t
end

