-- ==== Sys2Proof/Laws/Assembler.lean ====
section
/-! SUPPORT. How a line of assembler text is taken apart: blanks, commas, digits, and the call a whole
line is read as. -/

namespace Sys2Proof.Machine

/-- Text that neither begins nor ends with a blank is left as it is. -/
theorem trimBlanks_of_ends {cs : List Char} (hhead : ∀ c, cs.head? = some c → isBlank c = false)
    (hlast : ∀ c, cs.getLast? = some c → isBlank c = false) : trimBlanks cs = cs := by
  have keep : ∀ xs : List Char, (∀ c, xs.head? = some c → isBlank c = false) →
      xs.dropWhile isBlank = xs := by
    intro xs h
    cases xs with
    | nil => rfl
    | cons x xs => simp [h x rfl]
  unfold trimBlanks
  rw [keep cs hhead, keep cs.reverse (by simpa using hlast), List.reverse_reverse]

/-- A blank in front is taken off. -/
theorem trimBlanks_cons {c : Char} (cs : List Char) (h : isBlank c = true) :
    trimBlanks (c :: cs) = trimBlanks cs := by simp [trimBlanks, h]

/-- Text without a comma is one piece. -/
theorem splitCommas_of_no_comma {cs : List Char} (h : ∀ c ∈ cs, c ≠ ',') : splitCommas cs = [cs] := by
  induction cs with
  | nil => rfl
  | cons c cs ih =>
    simp [splitCommas, h c List.mem_cons_self, ih fun d hd => h d (List.mem_cons_of_mem _ hd)]

/-- The first comma ends the first piece. -/
theorem splitCommas_append_comma {xs : List Char} (ys : List Char) (h : ∀ c ∈ xs, c ≠ ',') :
    splitCommas (xs ++ ',' :: ys) = xs :: splitCommas ys := by
  induction xs with
  | nil => simp [splitCommas]
  | cons c cs ih =>
    simp [splitCommas, h c List.mem_cons_self, ih fun d hd => h d (List.mem_cons_of_mem _ hd)]

/-- Digits are read on from what the digits before them gave. -/
theorem readDigits_append (base : Nat) (xs ys : List Char) (acc : Nat) :
    readDigits base (xs ++ ys) acc = (readDigits base xs acc).bind (readDigits base ys) := by
  induction xs generalizing acc with
  | nil => rfl
  | cons x xs ih =>
    simp only [List.cons_append, readDigits]
    cases digitValue base x with
    | none => rfl
    | some d => exact ih _

/-- A line is read as its mnemonic and the pieces of its operands: for a mnemonic free of blanks and
operands that neither begin nor end with one. -/
theorem readLine_operands {m r : List Char} (hm : m ≠ []) (hblank : ∀ c ∈ m, isBlank c = false)
    (hr : r ≠ []) (hhead : ∀ c, r.head? = some c → isBlank c = false)
    (hlast : ∀ c, r.getLast? = some c → isBlank c = false) :
    readLine (String.ofList (m ++ ' ' :: r)) =
      readCall (String.ofList m) ((splitCommas r).map trimBlanks) := by
  have hline : trimBlanks (m ++ ' ' :: r) = m ++ ' ' :: r := by
    refine trimBlanks_of_ends (fun c hc => ?_) (fun c hc => hlast c ?_)
    · cases m with
      | nil => exact absurd rfl hm
      | cons d m =>
        obtain rfl : d = c := by simpa using hc
        exact hblank d List.mem_cons_self
    · cases r with
      | nil => exact absurd rfl hr
      | cons d r => simpa [List.getLast?_append, List.getLast?_cons_cons] using hc
  have htake : (m ++ ' ' :: r).takeWhile (fun c => !isBlank c) = m := by
    rw [List.takeWhile_append_of_pos (by simpa using hblank)]
    simp [isBlank]
  have hdrop : (m ++ ' ' :: r).dropWhile (fun c => !isBlank c) = ' ' :: r := by
    rw [List.dropWhile_append_of_pos (by simpa using hblank)]
    simp [isBlank]
  have hrest : trimBlanks (' ' :: r) = r := by
    rw [trimBlanks_cons r rfl, trimBlanks_of_ends hhead hlast]
  simp only [readLine, String.toList_ofList, hline, htake, hdrop, hrest, hr, if_false]

end Sys2Proof.Machine
end

