-- ==== Sys2Proof/Laws/Decode.lean ====
section
/-! SUPPORT. The bits of a packed word, its fields, what decoding it comes to, that a word is rebuilt
from its fields, and that the decoder accepts the well-formed words. -/

namespace Sys2Proof

/-- Where each bit of a packed word comes from (R34). -/
theorem getLsbD_packWord (op : BitVec 3) (sel : Selector) (data : Word) (i : Nat) :
    (packWord op sel data).getLsbD i =
      if i < 3 then op.getLsbD i
      else if i < 8 then sel.getLsbD (i - 3)
      else if i < 16 then false
      else data.getLsbD (i - 16) := by
  show BitVec.getLsbD (w := 16 + 8 + 5 + 3) (data ++ 0#8 ++ sel ++ op) i = _
  simp only [BitVec.getLsbD_append, BitVec.getLsbD_zero]
  have e1 : (i - 3 < 5) = (i < 3 ∨ i < 8) := by simp; omega
  have e2 : (i - 3 - 5 < 8) = (i < 8 ∨ i < 16) := by simp; omega
  have e3 : i - 3 - 5 - 8 = i - 16 := by omega
  simp only [e1, e2, e3]
  by_cases h1 : i < 3 <;> by_cases h2 : i < 8 <;> by_cases h3 : i < 16 <;>
    first | (exfalso; omega) | simp [h1, h2, h3]

theorem opField_packWord (op : BitVec 3) (sel : Selector) (data : Word) :
    opField (packWord op sel data) = op := by
  refine BitVec.eq_of_getLsbD_eq fun i hi => ?_
  simp [opField, getLsbD_packWord, hi]

theorem selField_packWord (op : BitVec 3) (sel : Selector) (data : Word) :
    selField (packWord op sel data) = sel := by
  refine BitVec.eq_of_getLsbD_eq fun i hi => ?_
  have h : 3 + i < 8 := by omega
  simp [selField, getLsbD_packWord, hi, h]

theorem rsvField_packWord (op : BitVec 3) (sel : Selector) (data : Word) :
    rsvField (packWord op sel data) = 0#8 := by
  refine BitVec.eq_of_getLsbD_eq fun i hi => ?_
  have h : 8 + i < 16 := by omega
  have h' : ¬ 8 + i < 3 := by omega
  simp [rsvField, getLsbD_packWord, h, h']

theorem dataField_packWord (op : BitVec 3) (sel : Selector) (data : Word) :
    dataField (packWord op sel data) = data := by
  refine BitVec.eq_of_getLsbD_eq fun i hi => ?_
  have h : ¬ 16 + i < 3 := by omega
  have h' : ¬ 16 + i < 8 := by omega
  simp [dataField, getLsbD_packWord, hi, h, h']

/-- A packed word decodes by its operation, selector and data alone. -/
theorem decode_packWord (op : BitVec 3) (sel : Selector) (data : Word) :
    decode (packWord op sel data) = decodeFields op sel data := by
  simp [decode, opField_packWord, selField_packWord, rsvField_packWord, dataField_packWord]

/-- A word with zero `RSV` is packed from its own fields. -/
theorem packWord_fields (w : CmdWord) (h : rsvField w = 0#8) :
    packWord (opField w) (selField w) (dataField w) = w := by
  refine BitVec.eq_of_getLsbD_eq fun i hi => ?_
  rw [getLsbD_packWord]
  have hr : 8 ≤ i → i < 16 → w.getLsbD i = false := by
    intro h8 h16
    have := congrArg (fun v : Byte => v.getLsbD (i - 8)) h
    simp only [rsvField, BitVec.getLsbD_extractLsb', BitVec.getLsbD_zero] at this
    have e : 8 + (i - 8) = i := by omega
    have l : i - 8 < 8 := by omega
    simpa [e, l] using this
  by_cases h3 : i < 3
  · simp [h3, opField]
  by_cases h8 : i < 8
  · have e : 3 + (i - 3) = i := by omega
    have l : i - 3 < 5 := by omega
    simp [h3, h8, selField, e, l]
  by_cases h16 : i < 16
  · simp [h3, h8, h16, hr (by omega) h16]
  · have e : 16 + (i - 16) = i := by omega
    have l : i - 16 < 16 := by omega
    simp [h3, h8, h16, dataField, e, l]

/-- A decoded word was packed from its own fields, and they decode to the same. -/
theorem decodeFields_of_decode {w : CmdWord} {i : Instr} (h : decode w = .ok i) :
    rsvField w = 0#8 ∧ decodeFields (opField w) (selField w) (dataField w) = .ok i := by
  unfold decode at h
  split at h
  · exact absurd h (by simp)
  · rename_i hr
    exact ⟨by simpa using hr, h⟩

end Sys2Proof
end

