-- ==== Sys2Proof/Laws/State.lean ====
section
/-! SUPPORT. What each update of the block and of the machine leaves in each field. -/

namespace Sys2Proof.Machine

@[simp] theorem readWord_writeWord_self (b : Block) (r : RegWord) (v : Word) :
    readWord (writeWord b r v) r = v := by cases r <;> rfl

theorem readWord_writeWord_other (b : Block) {r r' : RegWord} (v : Word) (h : r' ≠ r) :
    readWord (writeWord b r v) r' = readWord b r' := by
  cases r <;> cases r' <;> first | rfl | exact absurd rfl h

@[simp] theorem writeWord_ip (b : Block) (r : RegWord) (v : Word) : (writeWord b r v).ip = b.ip := by
  cases r <;> rfl

@[simp] theorem writeWord_sign (b : Block) (r : RegWord) (v : Word) :
    (writeWord b r v).sign = b.sign := by cases r <;> rfl

@[simp] theorem writeWord_zero (b : Block) (r : RegWord) (v : Word) :
    (writeWord b r v).zero = b.zero := by cases r <;> rfl

@[simp] theorem readFlag_writeFlag_self (b : Block) (f : FlagName) (v : Bool) :
    readFlag (writeFlag b f v) f = v := by cases f <;> rfl

theorem readFlag_writeFlag_other (b : Block) {f f' : FlagName} (v : Bool) (h : f' ≠ f) :
    readFlag (writeFlag b f v) f' = readFlag b f' := by
  cases f <;> cases f' <;> first | rfl | exact absurd rfl h

@[simp] theorem readWord_writeFlag (b : Block) (f : FlagName) (v : Bool) (r : RegWord) :
    readWord (writeFlag b f v) r = readWord b r := by cases f <;> rfl

@[simp] theorem writeFlag_ip (b : Block) (f : FlagName) (v : Bool) : (writeFlag b f v).ip = b.ip := by
  cases f <;> rfl

@[simp] theorem readWord_setIp (b : Block) (v : Word) (r : RegWord) :
    readWord { b with ip := v } r = readWord b r := by cases r <;> rfl

@[simp] theorem readFlag_setIp (b : Block) (v : Word) (f : FlagName) :
    readFlag { b with ip := v } f = readFlag b f := by cases f <;> rfl

/-- Two blocks are one when their words, `ip` and flags agree (R23: nothing else is state). -/
theorem Block.eq_of_reads {b b' : Block} (hw : ∀ r, readWord b r = readWord b' r)
    (hip : b.ip = b'.ip) (hf : ∀ f, readFlag b f = readFlag b' f) : b = b' := by
  cases b; cases b'
  simp only [Block.mk.injEq]
  exact ⟨hw .ax, hw .bx, hw .cx, hw .dx, hw .sp, hw .bp, hw .si, hw .di, hip, hf .sign, hf .zero⟩

end Sys2Proof.Machine
end

