-- ==== Sys2Proof/Laws/Operands.lean ====
section
/-! SUPPORT. What resolving a selector and writing a view can do. -/

namespace Sys2Proof.Machine

/-- No selector resolves to a byte view of a word that has none (R12). -/
theorem resolveReg_wf (sel : Selector) : (resolveReg sel).wf = true := by
  revert sel; decide

/-- The selectors that name no register (R36). -/
theorem resolveReg_eq_noName (sel : Selector) : resolveReg sel = .noName ↔ 17#5 ≤ sel := by
  revert sel; decide

/-- The one selector of the reserved name (R36). -/
theorem resolveReg_eq_ipName (sel : Selector) : resolveReg sel = .ipName ↔ sel = 16#5 := by
  revert sel; decide

/-- The selectors that name no flag (R37). -/
theorem resolveFlag_eq_noName (sel : Selector) : resolveFlag sel = .noName ↔ 2#5 ≤ sel := by
  revert sel; decide

/-- A register write is one write of one storage word (R55). -/
theorem readWord_writeReg (b : Block) (r r' : RegWord) (view : View) (v : Word) :
    readWord (writeReg b r view v) r' =
      if r' = r then writeView (readWord b r) view v else readWord b r' := by
  unfold writeReg
  split
  · next h => subst h; simp
  · next h => exact readWord_writeWord_other b _ h

@[simp] theorem writeReg_ip (b : Block) (r : RegWord) (view : View) (v : Word) :
    (writeReg b r view v).ip = b.ip := by simp [writeReg]

@[simp] theorem writeReg_sign (b : Block) (r : RegWord) (view : View) (v : Word) :
    (writeReg b r view v).sign = b.sign := by simp [writeReg]

@[simp] theorem writeReg_zero (b : Block) (r : RegWord) (view : View) (v : Word) :
    (writeReg b r view v).zero = b.zero := by simp [writeReg]

end Sys2Proof.Machine
end

