-- ==== Sys2Proof/Laws/Exec.lean ====
section
/-! SUPPORT. Everything a command can do, said once: it answers one response and leaves one block, both
of them functions of the command and the block (`exec_eq`). -/

namespace Sys2Proof.Machine

/-- The block after a command. -/
def blockAfter (i : Instr) (b : Block) : Block :=
  match i with
  | .regWrite sel v =>
    match resolveReg sel with
    | .reg r view => writeReg b r view v
    | .ipName | .noName => b
  | .ipModify d => { b with ip := adjustIp b.ip d }
  | .flagSet sel v =>
    match resolveFlag sel with
    | .flag f => writeFlag b f v
    | .noName => b
  | .regRead _ | .ipRead | .flagRead _ | .dump => b

/-- The response to a command. -/
def responseTo (i : Instr) (b : Block) : Response :=
  match i with
  | .regRead sel =>
    match resolveReg sel with
    | .reg r view => .reply .none (readView (readWord b r) view)
    | .ipName | .noName => .reply .unknownRegister 0x0000#16
  | .regWrite sel _ =>
    match resolveReg sel with
    | .reg _ _ => .reply .none 0x0000#16
    | .ipName => .reply .invalidOperation 0x0000#16
    | .noName => .reply .unknownRegister 0x0000#16
  | .ipModify _ => .reply .none 0x0000#16
  | .ipRead => .reply .none b.ip
  | .flagSet sel _ =>
    match resolveFlag sel with
    | .flag _ => .reply .none 0x0000#16
    | .noName => .reply .unknownFlag 0x0000#16
  | .flagRead sel =>
    match resolveFlag sel with
    | .flag f => .reply .none (boolWord (readFlag b f))
    | .noName => .reply .unknownFlag 0x0000#16
  | .dump => .snapshot (snapshotOf b)

/-- What carrying out a command comes to, for every command and state. -/
theorem exec_eq (i : Instr) (s : State) :
    exec i s = .next { s with
      block := blockAfter i s.block
      responses := s.responses ++ [responseTo i s.block] } := by
  cases i with
  | regRead sel =>
    simp only [exec, execRegRead, blockAfter, responseTo]
    cases resolveReg sel <;> rfl
  | regWrite sel v =>
    simp only [exec, execRegWrite, blockAfter, responseTo]
    cases resolveReg sel <;> rfl
  | flagSet sel v =>
    simp only [exec, execFlagSet, blockAfter, responseTo]
    cases resolveFlag sel <;> rfl
  | flagRead sel =>
    simp only [exec, execFlagRead, blockAfter, responseTo]
    cases resolveFlag sel <;> rfl
  | ipModify d => rfl
  | ipRead => rfl
  | dump => rfl

/-- The next state of a command, read off `exec_eq`. -/
theorem exec_next {i : Instr} {s t : State} (h : exec i s = .next t) :
    t = { s with
      block := blockAfter i s.block
      responses := s.responses ++ [responseTo i s.block] } := by
  rw [exec_eq] at h
  exact (Host.Outcome.next.inj h).symm

/-- The commands that leave every block as it is. -/
theorem blockAfter_of_reading {i : Instr} (b : Block)
    (h : (∃ sel, i = .regRead sel) ∨ i = .ipRead ∨ (∃ sel, i = .flagRead sel) ∨ i = .dump) :
    blockAfter i b = b := by
  rcases h with ⟨_, rfl⟩ | rfl | ⟨_, rfl⟩ | rfl <;> rfl

end Sys2Proof.Machine
end

