-- ==== Sys2Proof/Laws/WellFormed.lean ====
section
/-! SUPPORT. The checks on a command word, which are written with masks, said of its fields, and that
together they are the decoder's own conditions. -/

namespace Sys2Proof

/-- A mask that covers one field finds it zero exactly when the field is zero. -/
theorem mask_eq_zero_iff (w m : CmdWord) (start len : Nat) (hlen : start + len ≤ 32)
    (hm : ∀ i, i < 32 → m.getLsbD i = (decide (start ≤ i) && decide (i < start + len))) :
    w &&& m = 0#32 ↔ w.extractLsb' start len = 0#len := by
  constructor
  · intro h
    refine BitVec.eq_of_getLsbD_eq fun j hj => ?_
    have hb := congrArg (fun v : CmdWord => v.getLsbD (start + j)) h
    simp only [BitVec.getLsbD_and, BitVec.getLsbD_zero, hm (start + j) (by omega)] at hb
    have hj' : start + j < start + len := by omega
    simpa [hj, hj'] using hb
  · intro h
    refine BitVec.eq_of_getLsbD_eq fun i hi => ?_
    rw [BitVec.getLsbD_and, hm i hi, BitVec.getLsbD_zero]
    by_cases hs : start ≤ i ∧ i < start + len
    · have hb := congrArg (fun v : BitVec len => v.getLsbD (i - start)) h
      have e : start + (i - start) = i := by omega
      have l : i - start < len := by omega
      simp only [BitVec.getLsbD_extractLsb', BitVec.getLsbD_zero, e, l, decide_true, Bool.true_and] at hb
      simp [hb]
    · rw [not_and_or] at hs
      rcases hs with hs | hs <;> simp [hs]

/-- The mask of the operation field gives the operation. -/
theorem and_opMask (w : CmdWord) : w &&& 0x00000007#32 = (opField w).setWidth 32 := by
  refine BitVec.eq_of_getLsbD_eq fun i hi => ?_
  have hm : ∀ i, i < 32 → (0x00000007#32).getLsbD i = decide (i < 3) := by decide
  rw [BitVec.getLsbD_and, hm i hi, BitVec.getLsbD_setWidth, opField, BitVec.getLsbD_extractLsb']
  simp [hi, Bool.and_comm]

theorem rsvZero_iff (w : CmdWord) : rsvZero w = true ↔ rsvField w = 0#8 := by
  simpa [rsvZero, rsvField] using mask_eq_zero_iff w 0x0000FF00#32 8 8 (by decide) (by decide)

theorem selMask_iff (w : CmdWord) : (w &&& 0x000000F8#32 == 0#32) = true ↔ selField w = 0#5 := by
  simpa [selField] using mask_eq_zero_iff w 0x000000F8#32 3 5 (by decide) (by decide)

theorem dataMask_iff (w : CmdWord) : (w &&& 0xFFFF0000#32 == 0#32) = true ↔ dataField w = 0#16 := by
  simpa [dataField] using mask_eq_zero_iff w 0xFFFF0000#32 16 16 (by decide) (by decide)

theorem flagMask_iff (w : CmdWord) :
    (w &&& 0xFFFE0000#32 == 0#32) = true ↔ (dataField w).extractLsb' 1 15 = 0#15 := by
  have e : (dataField w).extractLsb' 1 15 = w.extractLsb' 17 15 := by
    refine BitVec.eq_of_getLsbD_eq fun i hi => ?_
    have h : 1 + i < 16 := by omega
    have e : 16 + (1 + i) = 17 + i := by omega
    simp [dataField, hi, h, e]
  rw [e]
  simpa using mask_eq_zero_iff w 0xFFFE0000#32 17 15 (by decide) (by decide)

/-- The decoder accepts exactly the words that pass the checks. -/
theorem wellFormedWord_iff (w : CmdWord) : wellFormedWord w = true ↔ ∃ i, decode w = .ok i := by
  have hr := rsvZero_iff w
  have hs := selMask_iff w
  have hd := dataMask_iff w
  have hf := flagMask_iff w
  simp only [wellFormedWord, opAssigned, selZeroWhereUnused, selUnused, dataZeroWhereUnused,
    dataUnused, flagValueFits, and_opMask, decode, Bool.and_eq_true, Bool.or_eq_true,
    Bool.not_eq_true', hr, hs, hd, hf]
  generalize opField w = op
  by_cases h0 : rsvField w = 0#8 <;> by_cases h1 : selField w = 0#5 <;>
    by_cases h2 : dataField w = 0#16 <;>
    by_cases h3 : (dataField w).extractLsb' 1 15 = 0#15 <;>
    simp only [h0, h1, h2, h3, ne_eq, not_true_eq_false, not_false_eq_true, ite_true, ite_false] <;>
    (have : ∀ op : BitVec 3, op = 0#3 ∨ op = 1#3 ∨ op = 2#3 ∨ op = 3#3 ∨ op = 4#3 ∨ op = 5#3 ∨
        op = 6#3 ∨ op = 7#3 := by decide) <;>
    rcases this op with rfl | rfl | rfl | rfl | rfl | rfl | rfl | rfl <;>
    simp [decodeFields, h1, h2, h3]

/-- What the decoder reads from a packed word makes the word well formed. -/
theorem wellFormedWord_packWord {op : BitVec 3} {sel : Selector} {data : Word} {i : Instr}
    (h : decodeFields op sel data = .ok i) : wellFormedWord (packWord op sel data) = true :=
  (wellFormedWord_iff _).2 ⟨i, by rw [decode_packWord, h]⟩

end Sys2Proof
end

