-- ==== Sys2Proof/Laws/PerInstr.lean ====
section
/-! SUPPORT. One lemma for each command: its word is one that R42 does not refuse. -/

namespace Sys2Proof.Laws.EncodesWellFormed

/-- The word of a command passes every check of R42. -/
def Statement (i : Instr) : Prop := wellFormedWord (encode i) = true

theorem regRead (sel : Selector) : Statement (.regRead sel) :=
  wellFormedWord_packWord (i := .regRead sel) rfl

theorem regWrite (sel : Selector) (value : Word) : Statement (.regWrite sel value) :=
  wellFormedWord_packWord (i := .regWrite sel value) rfl

theorem ipModify (delta : Word) : Statement (.ipModify delta) :=
  wellFormedWord_packWord (i := .ipModify delta) rfl

theorem ipRead : Statement .ipRead := wellFormedWord_packWord (i := .ipRead) rfl

theorem flagSet (sel : Selector) (value : Bool) : Statement (.flagSet sel value) := by
  cases value
  · exact wellFormedWord_packWord (i := .flagSet sel false) rfl
  · exact wellFormedWord_packWord (i := .flagSet sel true) rfl

theorem flagRead (sel : Selector) : Statement (.flagRead sel) :=
  wellFormedWord_packWord (i := .flagRead sel) rfl

theorem dump : Statement .dump := wellFormedWord_packWord (i := .dump) rfl

end Sys2Proof.Laws.EncodesWellFormed
end

