-- ==== Sys2Proof/Laws/Step.lean ====
section
/-! SUPPORT. Everything a step can do, said once, and how a run unfolds. -/

namespace Sys2Proof.Machine

theorem step_nil {s : State} (h : s.commands = []) : step s = .next s := by
  simp [step, fetch, idle, h]

theorem step_cons {s : State} {w : CmdWord} {rest : List CmdWord} (h : s.commands = w :: rest) :
    step s = execWord w { s with commands := rest } := by simp [step, fetch, h]

@[simp] theorem withFetchWord_block (s : State) (nbits w : Nat) :
    (s.withFetchWord nbits w).block = s.block := rfl

@[simp] theorem withFetchWord_responses (s : State) (nbits w : Nat) :
    (s.withFetchWord nbits w).responses = s.responses := rfl

/-- The word placed is the one the very next step carries out, in the state it was placed in. -/
theorem step_withFetchWord (s : State) (nbits w : Nat) :
    step (s.withFetchWord nbits w) = execWord (tableWord nbits w) s := rfl

/-- A step that has a next state did nothing for want of a command, or carried out the command its
next word decodes to. -/
theorem step_cases {s t : State} (h : step s = .next t) :
    (s.commands = [] ∧ t = s) ∨
      ∃ w rest i, s.commands = w :: rest ∧ decode w = .ok i ∧
        t = { block := blockAfter i s.block
              commands := rest
              responses := s.responses ++ [responseTo i s.block] } := by
  cases hc : s.commands with
  | nil =>
    rw [step_nil hc] at h
    exact .inl ⟨rfl, (Host.Outcome.next.inj h).symm⟩
  | cons w rest =>
    rw [step_cons hc, execWord] at h
    cases hd : decode w with
    | error why => simp [hd] at h
    | ok i =>
      simp only [hd] at h
      exact .inr ⟨w, rest, i, rfl, hd, exec_next h⟩

/-- A step never faults. -/
theorem step_ne_fault (s : State) (f : Fault) : step s ≠ .fault f := nomatch f

theorem run_succ (n : Nat) (s : State) :
    run (n + 1) s = match step s with
      | .next s' => run n s'
      | .fault f => .fault f
      | .refused r => .refused r := rfl

/-- `run` is the host's run of this machine. -/
theorem run_eq_core_run (n : Nat) (s : State) : run n s = Host.Core.run Sys2Proof.core n s := by
  induction n generalizing s with
  | zero => rfl
  | succ n ih =>
    cases h : step s with
    | next s' =>
      have h' : Sys2Proof.core.step s = .next s' := h
      simpa only [run, Host.Core.run, h, h'] using ih s'
    | fault f => exact nomatch f
    | refused r =>
      have h' : Sys2Proof.core.step s = .refused r := h
      simp only [run, Host.Core.run, h, h']
      rfl

end Sys2Proof.Machine
end

