-- ==== Sys2Proof/Tests/Slice0.lean ====
section
/-! SUPPORT. The model's own tests. Expected values are those of spec/95_test_vectors.md, named by its
section numbers, or are read off the rule named; none is the model's own answer. The last part holds,
for each obligation with hypotheses, a state and operands that meet them. -/

namespace Sys2Proof.Tests

open Sys2Proof Sys2Proof.Machine

/-- The start state of 95_test_vectors.md 2.2. -/
def sample : Block :=
  { ax := 0xA1B2#16, bx := 0xC3D4#16, cx := 0xE5F6#16, dx := 0x0718#16, sp := 0xFFFE#16, bp := 0x8000#16,
    si := 0x0001#16, di := 0x7FFF#16, ip := 0x0000#16, sign := false, zero := false }

/-- A machine with the block `b` and one command issued. -/
def issue (b : Block) (w : CmdWord) : State := { block := b, commands := [w], responses := [] }

/-- A machine with the block `b` and nothing issued. -/
def quiet (b : Block) : State := { block := b, commands := [], responses := [] }

/-- The block and the responses after a step; nothing where the step has no next state. -/
def outcome (o : Host.Outcome State Fault Refusal) : Option (Block × List Response) :=
  match o with
  | .next t => some (t.block, t.responses)
  | .fault _ => none
  | .refused _ => none

/-! ### The parameter table (R7) -/

theorem test_parameter_counts :
    RegWord.all.length = Config.numRegs ∧
      (RegWord.all.filter RegWord.byteAliased).length = Config.numByteAliasedRegs ∧
      (RegWord.all.filter (fun r => !r.byteAliased)).length = Config.numWordOnlyRegs ∧
      registerNames.length = Config.numRegNames ∧ flagNames.length = Config.numFlags := by decide

/-! ### Well-formedness: each check refuses an ill-formed term (2.7; R12; R39, R44) -/

theorem test_opAssigned_refuses : opAssigned 0x00000007#32 = false ∧ wellFormedWord 0x00000007#32 = false := by
  decide
theorem test_rsvZero_refuses : rsvZero 0x00008001#32 = false ∧ wellFormedWord 0x00008001#32 = false := by
  decide
theorem test_selZeroWhereUnused_refuses :
    selZeroWhereUnused 0x0000000A#32 = false ∧ wellFormedWord 0x0000000A#32 = false := by decide
theorem test_dataZeroWhereUnused_refuses :
    dataZeroWhereUnused 0x00010005#32 = false ∧ wellFormedWord 0x00010005#32 = false := by decide
theorem test_flagValueFits_refuses :
    flagValueFits 0x00020004#32 = false ∧ wellFormedWord 0x00020004#32 = false := by decide
theorem test_RegRef_wf_refuses : (RegRef.reg .sp .low).wf = false ∧ (RegRef.reg .di .high).wf = false := by
  decide
theorem test_Call_wf_refuses : (Call.setNewRegisterValue "al" 0x10000).wf = false ∧
    (Call.modifyIp 32768).wf = false ∧ (Call.modifyIp (-32769)).wf = false := by decide
theorem test_wellFormedWord_accepts : wellFormedWord 0x80000002#32 = true ∧ wellFormedWord 0x000000F8#32 = true := by
  decide

/-! ### Decoding: words written out bit by bit from the encoding strings of R34 and the opcode table -/

theorem test_decode_regRead : decode 0b0000000000000000_00000000_00100_000#32 = .ok (.regRead 4#5) := by decide
theorem test_decode_regWrite :
    decode 0b1011111011101111_00000000_01101_001#32 = .ok (.regWrite 13#5 0xBEEF#16) := by decide
theorem test_decode_ipModify :
    decode 0b1111111111111001_00000000_00000_010#32 = .ok (.ipModify 0xFFF9#16) := by decide
theorem test_decode_ipRead : decode 0b0000000000000000_00000000_00000_011#32 = .ok .ipRead := by decide
theorem test_decode_flagSet :
    decode 0b0000000000000001_00000000_00001_100#32 = .ok (.flagSet 1#5 true) ∧
      decode 0b0000000000000000_00000000_00001_100#32 = .ok (.flagSet 1#5 false) := by decide
theorem test_decode_flagRead : decode 0b0000000000000000_00000000_11111_101#32 = .ok (.flagRead 31#5) := by decide
theorem test_decode_dump : decode 0b0000000000000000_00000000_00000_110#32 = .ok .dump := by decide

/-- The refused words of 2.7, with its reasons. -/
theorem test_decode_refuses :
    decode 0x00000007#32 = .error .reservedOperation ∧ decode 0x00010007#32 = .error .reservedOperation ∧
      decode 0x00000100#32 = .error .reservedBitsSet ∧ decode 0x00008001#32 = .error .reservedBitsSet ∧
      decode 0x00010000#32 = .error .unusedDataSet ∧ decode 0x0000000A#32 = .error .unusedSelectorSet ∧
      decode 0x0000000B#32 = .error .unusedSelectorSet ∧ decode 0x00020004#32 = .error .flagValueTooWide ∧
      decode 0xFFFF0004#32 = .error .flagValueTooWide ∧ decode 0x00010005#32 = .error .unusedDataSet ∧
      decode 0x0000000E#32 = .error .unusedSelectorSet ∧ decode 0x00010006#32 = .error .unusedDataSet := by
  decide

/-- The encodings of the table of R44, as the words of section 3 have them. -/
theorem test_encode : encode (.regRead 4#5) = 0x00000020#32 ∧ encode (.regWrite 1#5 0xE5F6#16) = 0xE5F60009#32 ∧
    encode (.ipModify 0xFFFB#16) = 0xFFFB0002#32 ∧ encode .ipRead = 0x00000003#32 ∧
    encode (.flagSet 31#5 true) = 0x000100FC#32 ∧ encode (.flagRead 1#5) = 0x0000000D#32 ∧
    encode .dump = 0x00000006#32 := by decide

theorem test_decodeTableWord : decodeTableWord 32 0x01020049 = some (.regWrite 9#5 0x0102#16) ∧
    decodeTableWord 32 0x00000007 = none := by decide

/-! ### The register cell (2.1) -/

theorem test_cell : cellGetLow 0xABCD#16 = 0xCD#8 ∧ cellGetHigh 0xABCD#16 = 0xAB#8 ∧
    cellSetLow 0xABCD#16 0x12#8 = 0xAB12#16 ∧ cellSetHigh 0xABCD#16 0x12#8 = 0x12CD#16 ∧
    cellSetLow 0xFFFF#16 0x00#8 = 0xFF00#16 ∧ cellSetHigh 0xFFFF#16 0x00#8 = 0x00FF#16 := by decide

/-! ### The commands, one step each (2.2 to 2.6) -/

theorem test_regRead_high : outcome (step (issue sample 0x00000020#32)) =
    some (sample, [.reply .none 0x00A1#16]) := by decide
theorem test_regRead_ip : outcome (step (issue sample 0x00000080#32)) =
    some (sample, [.reply .unknownRegister 0x0000#16]) := by decide
theorem test_regWrite_high : outcome (step (issue sample 0xBEEF0021#32)) =
    some ({ sample with ax := 0xEFB2#16 }, [.reply .none 0x0000#16]) := by decide
theorem test_regWrite_ip : outcome (step (issue sample 0xBEEF0081#32)) =
    some (sample, [.reply .invalidOperation 0x0000#16]) := by decide
theorem test_ipModify_wraps_up : outcome (step (issue { sample with ip := 0x7FFF#16 } 0x00010002#32)) =
    some ({ sample with ip := 0x8000#16 }, [.reply .none 0x0000#16]) := by decide
theorem test_ipModify_negative : outcome (step (issue { sample with ip := 0x0005#16 } 0xFFF90002#32)) =
    some ({ sample with ip := 0xFFFE#16 }, [.reply .none 0x0000#16]) := by decide
theorem test_ipRead : outcome (step (issue { sample with ip := 0x8001#16 } 0x00000003#32)) =
    some ({ sample with ip := 0x8001#16 }, [.reply .none 0x8001#16]) := by decide
theorem test_flagSet_clears_sign : outcome (step (issue { sample with sign := true, zero := true } 0x00000004#32)) =
    some ({ sample with sign := false, zero := true }, [.reply .none 0x0000#16]) := by decide
theorem test_flagSet_unknown : outcome (step (issue sample 0x00010084#32)) =
    some (sample, [.reply .unknownFlag 0x0000#16]) := by decide
theorem test_flagRead_zero : outcome (step (issue { sample with sign := true } 0x0000000D#32)) =
    some ({ sample with sign := true }, [.reply .none 0x0000#16]) := by decide
theorem test_flagRead_unknown : outcome (step (issue sample 0x000000FD#32)) =
    some (sample, [.reply .unknownFlag 0x0000#16]) := by decide
theorem test_dump : outcome (step (issue { sample with ip := 0x8000#16, sign := true } 0x00000006#32)) =
    some ({ sample with ip := 0x8000#16, sign := true },
      [.snapshot #v[0xA1B2#16, 0xC3D4#16, 0xE5F6#16, 0x0718#16, 0xFFFE#16, 0x8000#16, 0x0001#16, 0x7FFF#16,
        0x8000#16, 0x0001#16, 0x0000#16]]) := by decide

/-- The first command after reset, placed as the host places it (P4, line 1). -/
theorem test_withFetchWord : outcome (step (State.reset.withFetchWord 32 0x01020049)) =
    some ({ Block.reset with cx := 0x0102#16 }, [.reply .none 0x0000#16]) := by decide

/-- A refused word gets no step (2.7). -/
theorem test_step_refuses : step (issue sample 0x00000007#32) = .refused (.reservedWord .reservedOperation) := rfl

/-- R40, R41: `InvalidOperation` is `11` in bits [17:16], and a result stands in bits [15:0]. -/
theorem test_responseWord : responseWord (.reply .invalidOperation 0x0000#16) = some 0x00030000#32 ∧
    responseWord (.reply .none 0x12FF#16) = some 0x000012FF#32 := by decide

/-! ### Strings (R14, R38, R44) -/

theorem test_names : regSelector "bh" = 7#5 ∧ regSelector "ip" = 16#5 ∧ regSelector "AX" = 31#5 ∧
    regSelector " ax" = 31#5 ∧ regSelector "sil" = 31#5 ∧ flagSelector "zero" = 1#5 ∧
    flagSelector "Sign" = 31#5 ∧ flagSelector "carry" = 31#5 := by decide

theorem test_callWord_too_wide : callWord (.setNewRegisterValue "al" 0x10000) = none ∧
    callWord (.setNewRegisterValue "al" 0x1FF) = some 0x01FF0001#32 := by decide

/-- Lines of P1, P2, P3 and P4 with the words beside them. -/
theorem test_assemble_registers : assembleLine "REG_WRITE al, 0x1FF" = some 0x01FF0001#32 ∧
    assembleLine "REG_WRITE ip, 5" = some 0x00050081#32 ∧
    assembleLine "REG_READ zz" = some 0x000000F8#32 := by decide
theorem test_assemble_ip : assembleLine "IP_MODIFY -32768" = some 0x80000002#32 ∧
    assembleLine "IP_MODIFY 32767" = some 0x7FFF0002#32 ∧
    assembleLine "IP_READ" = some 0x00000003#32 := by decide
theorem test_assemble_flags : assembleLine "FLAG_SET carry, true" = some 0x000100FC#32 ∧
    assembleLine "FLAG_SET zero, 0" = some 0x0000000C#32 ∧
    assembleLine "FLAG_READ zero" = some 0x0000000D#32 ∧ assembleLine "DUMP" = some 0x00000006#32 := by decide

/-- Upper-case digits, as 2.3 writes its values. -/
theorem test_assemble_upper_case : assembleLine "REG_WRITE ah, 0xBEEF" = some 0xBEEF0021#32 ∧
    assembleLine "IP_MODIFY 0xFFF9" = some 0xFFF90002#32 := by decide

/-- R44's ranges: a value over 0xFFFF, a delta over 32767, an operand too many, an unknown mnemonic. -/
theorem test_assemble_refuses : assembleLine "REG_WRITE ax, 65536" = none ∧
    assembleLine "IP_MODIFY 32768" = none ∧ assembleLine "DUMP ax" = none ∧
    assembleLine "MOV ax, 1" = none := by decide

/-! ### Witnesses for the hypotheses of the obligations -/

theorem witness_StepKeepsResponsesWellFormed :
    responsesWf { issue sample 0x00000080#32 with responses := [.reply .none 0x00B2#16] } = true ∧
      ∃ t, step { issue sample 0x00000080#32 with responses := [.reply .none 0x00B2#16] } = .next t :=
  ⟨by decide, _, rfl⟩

theorem witness_EncodeOfDecodeIsTheWord : decode 0xFFFF0079#32 = .ok (.regWrite 15#5 0xFFFF#16) := by decide

/-- One word for each of R42's five conditions and one for none, and the least selector of each error
clause. -/
theorem witness_ReservedWordsGetNoStep :
    (issue sample 0x0000000F#32).commands = 0x0000000F#32 :: [] ∧
      (issue sample 0x00000100#32).commands = 0x00000100#32 :: [] ∧
      (issue sample 0x0000000E#32).commands = 0x0000000E#32 :: [] ∧
      (issue sample 0x00010006#32).commands = 0x00010006#32 :: [] ∧
      (issue sample 0x00020004#32).commands = 0x00020004#32 :: [] ∧
      (issue sample 0x00010004#32).commands = 0x00010004#32 :: [] ∧
      17#5 ≤ (17#5 : Selector) ∧ 17#5 ≤ (31#5 : Selector) ∧
      2#5 ≤ (2#5 : Selector) ∧ 2#5 ≤ (31#5 : Selector) := by decide

theorem witness_StepRunsTheDecodedCommand :
    (issue sample 0x00000006#32).commands = 0x00000006#32 :: [] ∧ decode 0x00000006#32 = .ok .dump := by decide

theorem witness_StepWithoutCommandChangesNothing : (quiet sample).commands = [] := rfl

/-- Both ends of the selectors of a register, of a byte name, and of the error clause. -/
theorem witness_RegReadAnswersTheNamedView : 16#5 ≤ (16#5 : Selector) ∧ 16#5 ≤ (31#5 : Selector) ∧
    (7#5 : Selector) < 8#5 ∧
    exec (.regRead 7#5) (quiet sample) =
      .next { quiet sample with responses := (quiet sample).responses ++ [.reply .none 0x00C3#16] } :=
  ⟨by decide, by decide, by decide, rfl⟩

theorem witness_ResetReadsZeroEverywhere : (0#5 : Selector) < 16#5 ∧ (15#5 : Selector) < 16#5 := by decide

theorem witness_RegWriteStoresIntoTheNamedView : 17#5 ≤ (17#5 : Selector) ∧ 17#5 ≤ (31#5 : Selector) := by decide

/-- A word that is written, one that is not, and a failed write. -/
theorem witness_RegWriteFrame :
    (∃ t, exec (.regWrite 0#5 0x01FF#16) (quiet sample) = .next t) ∧
      resolveReg 0#5 ≠ .reg .di .low ∧ resolveReg 0#5 ≠ .reg .di .high ∧ resolveReg 0#5 ≠ .reg .di .word ∧
      (∃ t, exec (.regWrite 16#5 0x0005#16) (quiet sample) = .next t) ∧
      resolveReg 16#5 ≠ .reg .ax .low ∧ resolveReg 16#5 ≠ .reg .ax .high ∧ resolveReg 16#5 ≠ .reg .ax .word :=
  ⟨⟨_, rfl⟩, by decide, by decide, by decide, ⟨_, rfl⟩, by decide, by decide, by decide⟩

/-- Each of the three write clauses, at the last of the four words (bx, selectors 3, 7 and 11). -/
theorem witness_ByteNamesAliasTheirWord : (3#5 : Selector) < 4#5 ∧
    (∃ t, exec (.regWrite 3#5 0x80FF#16) (quiet sample) = .next t) ∧
    Answers (.regRead 7#5) (quiet sample) (.reply .none 0x00C3#16) ∧
    (∃ t, exec (.regWrite 7#5 0x80FF#16) (quiet sample) = .next t) ∧
    Answers (.regRead 3#5) (quiet sample) (.reply .none 0x00D4#16) ∧
    (∃ t, exec (.regWrite 11#5 0x80FF#16) (quiet sample) = .next t) :=
  ⟨by decide, ⟨_, rfl⟩, ⟨_, rfl, rfl⟩, ⟨_, rfl⟩, ⟨_, rfl, rfl⟩, ⟨_, rfl⟩⟩

theorem witness_WritesReachOneWordOnly :
    resolveReg 4#5 = .reg .ax .high ∧ resolveReg 15#5 = .reg .di .word ∧ RegWord.ax ≠ RegWord.di ∧
      (∃ t, exec (.regWrite 4#5 0x0012#16) (quiet sample) = .next t) ∧
      Answers (.regRead 15#5) (quiet sample) (.reply .none 0x7FFF#16) :=
  ⟨rfl, rfl, by decide, ⟨_, rfl⟩, ⟨_, rfl, rfl⟩⟩

theorem witness_FlagSetWritesTheNamedFlag :
    2#5 ≤ (2#5 : Selector) ∧ 2#5 ≤ (31#5 : Selector) ∧ "carry" ≠ "sign" ∧ "carry" ≠ "zero" := by decide

theorem witness_FlagReadAnswersTheNamedFlag : 2#5 ≤ (2#5 : Selector) ∧ 2#5 ≤ (31#5 : Selector) := by decide

/-- Each of the four reading commands. -/
theorem witness_ReadingCommandsChangeNothing :
    (∃ t, exec (.regRead 31#5) (quiet sample) = .next t) ∧ (∃ t, exec .ipRead (quiet sample) = .next t) ∧
      (∃ t, exec (.flagRead 1#5) (quiet sample) = .next t) ∧ (∃ t, exec .dump (quiet sample) = .next t) :=
  ⟨⟨_, rfl⟩, ⟨_, rfl⟩, ⟨_, rfl⟩, ⟨_, rfl⟩⟩

theorem witness_OnlyIpModifyChangesIp : ∃ t, step (issue sample 0xFFFF0002#32) = .next t ∧
    t.block.ip ≠ (issue sample 0xFFFF0002#32).block.ip :=
  ⟨_, rfl, by decide⟩

theorem witness_OnlyFlagSetChangesFlags :
    (∃ t, step (issue sample 0x00010004#32) = .next t ∧
      t.block.sign ≠ (issue sample 0x00010004#32).block.sign) ∧
    ∃ t, step (issue sample 0x0001000C#32) = .next t ∧
      t.block.zero ≠ (issue sample 0x0001000C#32).block.zero :=
  ⟨⟨_, rfl, by decide⟩, _, rfl, by decide⟩

theorem witness_OnlyRegWriteChangesRegisters : ∃ t, step (issue sample 0xBEEF0079#32) = .next t ∧
    readWord t.block .di ≠ readWord (issue sample 0xBEEF0079#32).block .di :=
  ⟨_, rfl, by decide⟩

theorem witness_CommandsDependOnTheBlockAlone :
    (quiet sample).block = (issue sample 0x00000006#32).block ∧
      ∃ t, exec (.regWrite 8#5 0x0000#16) (quiet sample) = .next t :=
  ⟨rfl, _, rfl⟩

theorem witness_RepeatingACommandChangesNothingMore :
    (∀ d, Instr.regWrite 4#5 0xFF00#16 ≠ .ipModify d) ∧
      ∃ t u, exec (.regWrite 4#5 0xFF00#16) (quiet sample) = .next t ∧
        exec (.regWrite 4#5 0xFF00#16) t = .next u :=
  ⟨nofun, _, _, rfl, rfl⟩

/-- The stream of each of the three clauses. -/
theorem witness_ReadsSeeTheLatestWrite :
    ((15#5 : Selector) < 16#5 ∧ (7#5 : Selector) < 16#5 ∧
      ({ quiet sample with commands := [encode (.regWrite 7#5 0xBEEF#16), encode (.regRead 7#5)] } : State).commands =
        encode (.regWrite 7#5 0xBEEF#16) :: encode (.regRead 7#5) :: []) ∧
    ((1#5 : Selector) < 2#5 ∧
      ({ quiet sample with commands := [encode (.flagSet 1#5 true), encode (.flagRead 1#5)] } : State).commands =
        encode (.flagSet 1#5 true) :: encode (.flagRead 1#5) :: []) ∧
    ({ quiet sample with commands := [encode (.ipModify 0x8000#16), encode .ipRead] } : State).commands =
      encode (.ipModify 0x8000#16) :: encode .ipRead :: [] := by decide

/-- A string outside the names, and the string `ip` for the reading clause alone. -/
theorem witness_UnknownRegisterIsRaisedExactlyThere : "zz" ∉ registerNames ∧ "zz" ≠ "ip" ∧
    "ip" ∉ registerNames ∧ 16#5 ≤ (16#5 : Selector) ∧ 17#5 ≤ (17#5 : Selector) := by decide

theorem witness_UnknownFlagIsRaisedExactlyThere : "carry" ∉ flagNames ∧ 2#5 ≤ (2#5 : Selector) := by decide

theorem witness_FailedCommandChangesNoState : ErrorKind.invalidOperation ≠ .none ∧
    (∃ t, exec (.regWrite 16#5 0x0005#16) (quiet sample) = .next t ∧
      t.responses = (quiet sample).responses ++ [.reply .invalidOperation 0x0000#16]) ∧
    ∃ u, exec (.ipModify 0x0001#16) (quiet sample) = .next u :=
  ⟨by decide, ⟨_, rfl, rfl⟩, _, rfl⟩

theorem witness_EveryCallHasOneCommandWord : (Call.modifyIp (-32768)).wf = true ∧
    (Call.setNewRegisterValue "ax" 0xFFFF).wf = true ∧
    (Call.setNewRegisterValue "ax" 0x10000).wf = false ∧ (Call.modifyIp 32768).wf = false := by decide

theorem witness_CommandsRefineTheDocumentCalls :
    65535 < 65536 ∧ (-32768 : Int) ≤ -32768 ∧ (-32768 : Int) ≤ 32767 ∧ (32767 : Int) ≤ 32767 := by decide

/-- The largest value of each range; the hexadecimal digits in mixed case, after one leading zero. -/
theorem witness_AssemblerReadsEveryNumeral :
    "ax".toList ≠ [] ∧ (∀ c ∈ "ax".toList, isBlank c = false ∧ c ≠ ',') ∧ (0xFFFF : Nat) ≤ 0xFFFF ∧
      ['0', 'F', 'f', 'F', 'f'].map Char.toLower = List.replicate 1 '0' ++ Nat.toDigits 16 0xFFFF ∧
      (32767 : Nat) ≤ 32767 ∧ (32768 : Nat) ≤ 32768 :=
  ⟨by decide, by simp [isBlank], Nat.le_refl _, by simp [Nat.toDigits_of_base_le, Nat.toDigits_of_lt_base],
    Nat.le_refl _, Nat.le_refl _⟩

theorem witness_StreamRunsToItsEndExactlyWhenAccepted :
    (∃ t, run (issue sample 0x00000006#32).commands.length (issue sample 0x00000006#32) = .next t) ∧
      (issue sample 0x00000006#32).commands[0]? = some 0x00000006#32 := ⟨⟨_, rfl⟩, rfl⟩

theorem witness_RunMovesIpByItsDeltas : ∃ t, run 1 (issue sample 0x80000002#32) = .next t := ⟨_, rfl⟩

theorem witness_ReadsCanBeLeftOutOfARun : ∃ t,
    run 2 { quiet sample with commands := [0x00000006#32, 0x00010002#32] } = .next t := ⟨_, rfl⟩

theorem witness_FlagsNeverReachRegistersOrIp :
    sameButFlags (issue sample 0xBEEF0041#32).block
        (issue { sample with sign := true, zero := true } 0xBEEF0041#32).block ∧
      (issue sample 0xBEEF0041#32).commands =
        (issue { sample with sign := true, zero := true } 0xBEEF0041#32).commands ∧
      ∃ t, run 1 (issue sample 0xBEEF0041#32) = .next t :=
  ⟨⟨rfl, rfl, rfl, rfl, rfl, rfl, rfl, rfl, rfl⟩, rfl, _, rfl⟩

theorem witness_InstancesShareNothing :
    (∃ sys', stepInstance 1 [quiet sample, issue sample 0x00010002#32] = .next sys') ∧ 0 ≠ 1 ∧
      [quiet sample, issue sample 0x00010002#32][1]? = some (issue sample 0x00010002#32) :=
  ⟨⟨_, rfl⟩, by decide, rfl⟩

end Sys2Proof.Tests
end

/-! ### Reset: what the names read (10_state.md R24) -/

namespace Sys2Proof.Machine

/-- The 16 selectors of R36 are the names of R13. -/
theorem exists_resolveReg_eq_reg {sel : Selector} (h : sel < 16#5) :
    ∃ r view, resolveReg sel = .reg r view := by
  cases hr : resolveReg sel with
  | reg r view => exact ⟨r, view, rfl⟩
  | ipName =>
    have heq : sel = 16#5 := (resolveReg_eq_ipName sel).1 hr
    bv_omega
  | noName =>
    have hle : 17#5 ≤ sel := (resolveReg_eq_noName sel).1 hr
    bv_omega

/-- A completed register read changes the responses alone (R54). -/
theorem exec_regRead_of_resolveReg {sel : Selector} {r : RegWord} {view : View} (s : State)
    (h : resolveReg sel = .reg r view) :
    exec (.regRead sel) s = .next { s with
      responses := s.responses ++ [.reply .none (readView (readWord s.block r) view)] } := by
  simp only [exec_eq, blockAfter, responseTo, h]

@[simp] theorem readWord_reset (r : RegWord) : readWord State.reset.block r = 0x0000#16 := by
  cases r <;> rfl

/-- Every view of a zero cell reads 0, a byte view by its zero extension (R54). -/
@[simp] theorem readView_zero (view : View) : readView 0x0000#16 view = 0x0000#16 := by
  cases view <;> rfl

/-- Settles O1: the components by evaluation of the reset state; the reads because each of the 16
selectors resolves to a view of a storage word, and every view of a zero word is zero. -/
theorem resetReadsZeroEverywhere : Obligations.ResetReadsZeroEverywhere := by
  unfold Obligations.ResetReadsZeroEverywhere
  refine ⟨by decide, fun sel hsel => ?_⟩
  obtain ⟨r, view, hres⟩ := exists_resolveReg_eq_reg hsel
  rw [exec_regRead_of_resolveReg State.reset hres, readWord_reset, readView_zero]

end Sys2Proof.Machine

/-! ### Encoding: the words that R42 refuses (30_encoding.md) -/

namespace Sys2Proof

/-- `DATA[15:1]` is bits [31:17] of the word (R34). -/
theorem extractLsb'_dataField (w : CmdWord) :
    (dataField w).extractLsb' 1 15 = w.extractLsb' 17 15 := by
  refine BitVec.eq_of_getLsbD_eq fun i hi => ?_
  have hdata : 1 + i < 16 := by omega
  have hbit : 16 + (1 + i) = 17 + i := by omega
  simp [dataField, hi, hdata, hbit]

/-- A guard of R45 refuses when it fails or when what stands behind it refuses. -/
theorem exists_guard_eq_error_iff {p : Prop} [Decidable p] (e : DecodeRefusal)
    (x : Except DecodeRefusal Instr) :
    (∃ why, (if p then x else .error e) = .error why) ↔ ¬ p ∨ ∃ why, x = .error why := by
  by_cases h : p <;> simp [h]

/-- The eight values of `OP` (R35). -/
theorem operation_cases : ∀ op : BitVec 3,
    op = 0b000#3 ∨ op = 0b001#3 ∨ op = 0b010#3 ∨ op = 0b011#3 ∨
      op = 0b100#3 ∨ op = 0b101#3 ∨ op = 0b110#3 ∨ op = 0b111#3 := by decide

/-- The conditions of R42 on `OP`, `SEL` and `DATA`, operation by operation (R45). -/
theorem exists_decodeFields_eq_error_iff (op : BitVec 3) (sel : Selector) (data : Word) :
    (∃ why, decodeFields op sel data = .error why) ↔
      op = 0b111#3 ∨
      (sel ≠ 0#5 ∧ (op = 0b010#3 ∨ op = 0b011#3 ∨ op = 0b110#3)) ∨
      (data ≠ 0#16 ∧ (op = 0b000#3 ∨ op = 0b011#3 ∨ op = 0b101#3 ∨ op = 0b110#3)) ∨
      (data.extractLsb' 1 15 ≠ 0#15 ∧ op = 0b100#3) := by
  rcases operation_cases op with rfl | rfl | rfl | rfl | rfl | rfl | rfl | rfl <;>
    simp [decodeFields, exists_guard_eq_error_iff]

/-- The decoder refuses exactly under the five conditions of R42. -/
theorem exists_decode_eq_error_iff (w : CmdWord) :
    (∃ why, decode w = .error why) ↔
      opField w = 0b111#3 ∨ rsvField w ≠ 0#8 ∨
      (selField w ≠ 0#5 ∧ (opField w = 0b010#3 ∨ opField w = 0b011#3 ∨ opField w = 0b110#3)) ∨
      (dataField w ≠ 0#16 ∧
        (opField w = 0b000#3 ∨ opField w = 0b011#3 ∨ opField w = 0b101#3 ∨ opField w = 0b110#3)) ∨
      (w.extractLsb' 17 15 ≠ 0#15 ∧ opField w = 0b100#3) := by
  rw [decode, ite_not, exists_guard_eq_error_iff, exists_decodeFields_eq_error_iff,
    extractLsb'_dataField, or_left_comm]

/-- A packed word as its fields shifted into their places (R34). -/
theorem packWord_eq_or (op : BitVec 3) (sel : Selector) (data : Word) :
    packWord op sel data =
      data.setWidth 32 <<< 16 ||| sel.setWidth 32 <<< 3 ||| op.setWidth 32 := by
  have h := BitVec.setWidth_append_append_append_eq_shiftLeft_setWidth_or
    (w'''' := 32) (b := data) (b' := 0#8) (b'' := sel) (b''' := op)
  simpa [packWord] using h

/-- Fields shifted into their places decode by the case analysis of R45. -/
theorem decode_or_fields (op : BitVec 3) (sel : Selector) (data : Word) :
    decode (data.setWidth 32 <<< 16 ||| sel.setWidth 32 <<< 3 ||| op.setWidth 32) =
      decodeFields op sel data := by
  rw [← packWord_eq_or, decode_packWord]

/-- No selector keeps a `REG_READ` word from its command (R42, D6). -/
theorem decode_regRead_word (sel : Selector) :
    decode (sel.setWidth 32 <<< 3) = .ok (.regRead sel) := by
  simpa [decodeFields] using decode_or_fields 0b000#3 sel 0#16

theorem decode_regWrite_word (sel : Selector) (v : Word) :
    decode (v.setWidth 32 <<< 16 ||| sel.setWidth 32 <<< 3 ||| 1#32) = .ok (.regWrite sel v) :=
  decode_or_fields 0b001#3 sel v

theorem decode_flagRead_word (sel : Selector) :
    decode (sel.setWidth 32 <<< 3 ||| 5#32) = .ok (.flagRead sel) := by
  simpa [decodeFields] using decode_or_fields 0b101#3 sel 0#16

theorem decode_flagSet_word (sel : Selector) (b : Bool) :
    decode ((if b then 0x00010000#32 else 0#32) ||| sel.setWidth 32 <<< 3 ||| 4#32) =
      .ok (.flagSet sel b) := by
  cases b with
  | false => exact decode_or_fields 0b100#3 sel 0#16
  | true => exact decode_or_fields 0b100#3 sel 1#16

end Sys2Proof

namespace Sys2Proof.Machine

/-- A step is a refusal exactly when the decoder refuses the next word: no command's meaning does. -/
theorem exists_step_eq_refused_iff {s : State} {w : CmdWord} {rest : List CmdWord}
    (h : s.commands = w :: rest) :
    (∃ why, step s = .refused why) ↔ ∃ why, decode w = .error why := by
  rw [step_cons h, execWord]
  cases decode w with
  | error why => simp
  | ok i => simp [exec_eq]

/-- A step that is no refusal has a next state. -/
theorem exists_step_eq_refused_or_next (s : State) :
    (∃ why, step s = .refused why) ∨ ∃ t, step s = .next t := by
  cases h : step s with
  | next t => exact .inr ⟨t, rfl⟩
  | fault f => exact absurd h (step_ne_fault s f)
  | refused why => exact .inl ⟨why, rfl⟩

/-- The response of `exec_eq` is a command's one answer. -/
theorem answers_responseTo (i : Instr) (s : State) : Answers i s (responseTo i s.block) :=
  ⟨_, exec_eq i s, rfl⟩

/-- The error of a register command whose selector is 17 to 31 (R68). -/
theorem answers_unknownRegister {sel : Selector} (h : 17#5 ≤ sel) (s : State) :
    Answers (.regRead sel) s (.reply .unknownRegister 0x0000#16) ∧
      ∀ v, Answers (.regWrite sel v) s (.reply .unknownRegister 0x0000#16) := by
  have hres : resolveReg sel = .noName := (resolveReg_eq_noName sel).2 h
  refine ⟨?_, fun v => ?_⟩
  · simpa only [responseTo, hres] using answers_responseTo (.regRead sel) s
  · simpa only [responseTo, hres] using answers_responseTo (.regWrite sel v) s

/-- The error of a flag command whose selector is 2 to 31 (R69). -/
theorem answers_unknownFlag {sel : Selector} (h : 2#5 ≤ sel) (s : State) :
    Answers (.flagRead sel) s (.reply .unknownFlag 0x0000#16) ∧
      ∀ b, Answers (.flagSet sel b) s (.reply .unknownFlag 0x0000#16) := by
  have hres : resolveFlag sel = .noName := (resolveFlag_eq_noName sel).2 h
  refine ⟨?_, fun b => ?_⟩
  · simpa only [responseTo, hres] using answers_responseTo (.flagRead sel) s
  · simpa only [responseTo, hres] using answers_responseTo (.flagSet sel b) s

/-- Settles O6: a step refuses when the decoder does, which is under R42's five conditions and never
for the selector of a command that takes one; the command then answers its own error. -/
theorem reservedWordsGetNoStep : Obligations.ReservedWordsGetNoStep := by
  unfold Obligations.ReservedWordsGetNoStep
  refine ⟨fun s w rest hs => ⟨?_, exists_step_eq_refused_or_next s⟩, fun sel hsel => ?_,
    fun sel hsel => ?_⟩
  · exact (exists_step_eq_refused_iff hs).trans (exists_decode_eq_error_iff w)
  · exact ⟨decode_regRead_word sel, fun s => (answers_unknownRegister hsel s).1, fun v =>
      ⟨decode_regWrite_word sel v, fun s => (answers_unknownRegister hsel s).2 v⟩⟩
  · exact ⟨decode_flagRead_word sel, fun s => (answers_unknownFlag hsel s).1, fun b =>
      ⟨decode_flagSet_word sel b, fun s => (answers_unknownFlag hsel s).2 b⟩⟩

end Sys2Proof.Machine

/-! ### The register cell: its readings and byte writes as numbers (40_register_cell.md) -/

namespace Sys2Proof.Machine

@[simp] theorem cellGet_eq (c : Word) : cellGet c = c := rfl

@[simp] theorem cellGet_cellSet (c v : Word) : cellGet (cellSet c v) = v := rfl

/-- `value & 0xFF` (R48). -/
theorem toNat_cellGetLow (c : Word) : (cellGetLow c).toNat = c.toNat % 256 := by
  rw [cellGetLow, BitVec.extractLsb'_toNat, Nat.shiftRight_zero]

/-- `(value >> 8) & 0xFF` (R49); the mask is idle, for a quotient of a word by 256 is a byte. -/
theorem toNat_cellGetHigh (c : Word) : (cellGetHigh c).toNat = c.toNat / 256 := by
  have hbyte : c.toNat / 2 ^ 8 < 2 ^ 8 := by omega
  rw [cellGetHigh, BitVec.extractLsb'_toNat, Nat.shiftRight_eq_div_pow]
  exact Nat.mod_eq_of_lt hbyte

/-- Two bytes put together do not overlap, so the combining "or" is a sum (R50). -/
theorem toNat_byte_append (high low : Byte) :
    (high ++ low : Word).toNat = high.toNat * 256 + low.toNat := by
  rw [BitVec.toNat_append, ← Nat.shiftLeft_add_eq_or_of_lt low.isLt, Nat.shiftLeft_eq]

@[simp] theorem cellGetLow_append (high low : Byte) : cellGetLow (high ++ low) = low :=
  BitVec.extractLsb'_append_eq_right

@[simp] theorem cellGetHigh_append (high low : Byte) : cellGetHigh (high ++ low) = high :=
  BitVec.extractLsb'_append_eq_left

theorem toNat_cellSetLow (c : Word) (v : Byte) :
    (cellSetLow c v).toNat = c.toNat / 256 * 256 + v.toNat := by
  rw [cellSetLow, toNat_byte_append, toNat_cellGetHigh]

theorem toNat_cellSetHigh (c : Word) (v : Byte) :
    (cellSetHigh c v).toNat = v.toNat * 256 + c.toNat % 256 := by
  rw [cellSetHigh, toNat_byte_append, toNat_cellGetLow]

@[simp] theorem cellGetLow_cellSetLow (c : Word) (v : Byte) : cellGetLow (cellSetLow c v) = v :=
  cellGetLow_append (cellGetHigh c) v

@[simp] theorem cellGetHigh_cellSetLow (c : Word) (v : Byte) :
    cellGetHigh (cellSetLow c v) = cellGetHigh c :=
  cellGetHigh_append (cellGetHigh c) v

@[simp] theorem cellGetHigh_cellSetHigh (c : Word) (v : Byte) : cellGetHigh (cellSetHigh c v) = v :=
  cellGetHigh_append v (cellGetLow c)

@[simp] theorem cellGetLow_cellSetHigh (c : Word) (v : Byte) :
    cellGetLow (cellSetHigh c v) = cellGetLow c :=
  cellGetLow_append v (cellGetLow c)

/-- Settles O14: `get` and `set` by definition; the byte readings are the remainder and the
quotient by 256 that their bit ranges denote. -/
theorem cellReadsWordAndBytes : Obligations.CellReadsWordAndBytes := by
  unfold Obligations.CellReadsWordAndBytes
  intro c v
  exact ⟨cellGet_eq c, cellGet_cellSet c v, toNat_cellGetLow c, toNat_cellGetHigh c⟩

/-- Settles O15: a byte write puts the new byte beside the other byte's reading, and each half of two
bytes put together reads back as it was. -/
theorem byteWriteKeepsTheOtherByte : Obligations.ByteWriteKeepsTheOtherByte := by
  unfold Obligations.ByteWriteKeepsTheOtherByte
  intro c v
  exact ⟨toNat_cellSetLow c v, toNat_cellSetHigh c v, cellGetLow_cellSetLow c v,
    cellGetHigh_cellSetLow c v, cellGetHigh_cellSetHigh c v, cellGetLow_cellSetHigh c v⟩

end Sys2Proof.Machine

/-! ### Register reads: the named view (41_register_access.md R54) -/

namespace Sys2Proof.Machine

/-- Zero extension puts a zero byte above the byte (R8). -/
theorem zeroExtend_eq_append (v : Byte) : zeroExtend v = 0#8 ++ v :=
  BitVec.setWidth_eq_append (by decide)

theorem zeroExtend_le (v : Byte) : zeroExtend v ≤ 0x00FF#16 := by
  unfold zeroExtend
  bv_omega

/-- A byte view reads at most 0x00FF. -/
theorem readView_le_of_ne_word (c : Word) {view : View} (h : view ≠ .word) :
    readView c view ≤ 0x00FF#16 := by
  cases view with
  | low => exact zeroExtend_le (cellGetLow c)
  | high => exact zeroExtend_le (cellGetHigh c)
  | word => exact absurd rfl h

/-- The names of whole words have selectors 8 and above (R36). -/
theorem le_of_resolveReg_eq_word {sel : Selector} {r : RegWord}
    (h : resolveReg sel = .reg r .word) : 8#5 ≤ sel := by
  revert sel
  cases r <;> decide

/-- Selectors 16 and above resolve to `ip` or to no name (R36). -/
theorem resolveReg_eq_ipName_or_noName {sel : Selector} (h : 16#5 ≤ sel) :
    resolveReg sel = .ipName ∨ resolveReg sel = .noName := by
  rw [resolveReg_eq_ipName, resolveReg_eq_noName]
  bv_omega

theorem exec_regRead_of_low {sel : Selector} {r : RegWord} (s : State)
    (h : resolveReg sel = .reg r .low) :
    exec (.regRead sel) s = .next { s with responses := s.responses ++
      [.reply .none (0#8 ++ (readWord s.block r).extractLsb' 0 8)] } := by
  rw [exec_regRead_of_resolveReg s h, readView, zeroExtend_eq_append, cellGetLow]

theorem exec_regRead_of_high {sel : Selector} {r : RegWord} (s : State)
    (h : resolveReg sel = .reg r .high) :
    exec (.regRead sel) s = .next { s with responses := s.responses ++
      [.reply .none (0#8 ++ (readWord s.block r).extractLsb' 8 8)] } := by
  rw [exec_regRead_of_resolveReg s h, readView, zeroExtend_eq_append, cellGetHigh]

/-- A read of `ip` is a read of no name (R54, D10). -/
theorem exec_regRead_of_le {sel : Selector} (s : State) (h : 16#5 ≤ sel) :
    exec (.regRead sel) s =
      .next { s with responses := s.responses ++ [.reply .unknownRegister 0x0000#16] } := by
  rcases resolveReg_eq_ipName_or_noName h with hres | hres <;>
    simp only [exec_eq, blockAfter, responseTo, hres]

/-- The result of a byte name's read is a byte view's reading. -/
theorem regRead_result_le {sel : Selector} {s : State} {v : Word} (hsel : sel < 8#5)
    (h : exec (.regRead sel) s = .next { s with responses := s.responses ++ [.reply .none v] }) :
    v ≤ 0x00FF#16 := by
  have hname : sel < 16#5 := by bv_omega
  obtain ⟨r, view, hres⟩ := exists_resolveReg_eq_reg hname
  have hview : view ≠ .word := by
    rintro rfl
    have hle := le_of_resolveReg_eq_word hres
    bv_omega
  have hv : readView (readWord s.block r) view = v := by
    simpa [exec_regRead_of_resolveReg s hres] using h
  exact hv ▸ readView_le_of_ne_word (readWord s.block r) hview

/-- Settles O17: each of the 16 names reads the view its selector resolves to, a byte view by its
zero extension; the other selectors resolve to `ip` or to no name. -/
theorem regReadAnswersTheNamedView : Obligations.RegReadAnswersTheNamedView := by
  unfold Obligations.RegReadAnswersTheNamedView
  exact ⟨fun _ => rfl, fun s => ⟨
    exec_regRead_of_low (r := .ax) s rfl,
    exec_regRead_of_low (r := .cx) s rfl,
    exec_regRead_of_low (r := .dx) s rfl,
    exec_regRead_of_low (r := .bx) s rfl,
    exec_regRead_of_high (r := .ax) s rfl,
    exec_regRead_of_high (r := .cx) s rfl,
    exec_regRead_of_high (r := .dx) s rfl,
    exec_regRead_of_high (r := .bx) s rfl,
    exec_regRead_of_resolveReg (r := .ax) (view := .word) s rfl,
    exec_regRead_of_resolveReg (r := .cx) (view := .word) s rfl,
    exec_regRead_of_resolveReg (r := .dx) (view := .word) s rfl,
    exec_regRead_of_resolveReg (r := .bx) (view := .word) s rfl,
    exec_regRead_of_resolveReg (r := .sp) (view := .word) s rfl,
    exec_regRead_of_resolveReg (r := .bp) (view := .word) s rfl,
    exec_regRead_of_resolveReg (r := .si) (view := .word) s rfl,
    exec_regRead_of_resolveReg (r := .di) (view := .word) s rfl,
    fun _ hsel => exec_regRead_of_le s hsel,
    fun _ _ hsel hread => regRead_result_le hsel hread⟩⟩

end Sys2Proof.Machine

/-! ### Register writes: the named view (41_register_access.md R55) -/

namespace Sys2Proof.Machine

/-- A completed register write changes the named view and answers zero (R55). -/
theorem exec_regWrite_of_resolveReg {sel : Selector} {r : RegWord} {view : View} (s : State)
    (v : Word) (h : resolveReg sel = .reg r view) :
    exec (.regWrite sel v) s = .next { s with
      block := writeReg s.block r view v
      responses := s.responses ++ [.reply .none 0x0000#16] } := by
  simp only [exec_eq, blockAfter, responseTo, h]

theorem exec_regWrite_of_ipName {sel : Selector} (s : State) (v : Word)
    (h : resolveReg sel = .ipName) :
    exec (.regWrite sel v) s =
      .next { s with responses := s.responses ++ [.reply .invalidOperation 0x0000#16] } := by
  simp only [exec_eq, blockAfter, responseTo, h]

theorem exec_regWrite_of_noName {sel : Selector} (s : State) (v : Word)
    (h : resolveReg sel = .noName) :
    exec (.regWrite sel v) s =
      .next { s with responses := s.responses ++ [.reply .unknownRegister 0x0000#16] } := by
  simp only [exec_eq, blockAfter, responseTo, h]

/-- Settles O18: each of the 16 names writes the view its selector resolves to, and `writeReg` of a
view is by definition the update of the one word that R55 states. -/
theorem regWriteStoresIntoTheNamedView : Obligations.RegWriteStoresIntoTheNamedView := by
  unfold Obligations.RegWriteStoresIntoTheNamedView
  exact ⟨fun _ _ => rfl, fun s v => ⟨
    exec_regWrite_of_resolveReg (r := .ax) (view := .low) s v rfl,
    exec_regWrite_of_resolveReg (r := .cx) (view := .low) s v rfl,
    exec_regWrite_of_resolveReg (r := .dx) (view := .low) s v rfl,
    exec_regWrite_of_resolveReg (r := .bx) (view := .low) s v rfl,
    exec_regWrite_of_resolveReg (r := .ax) (view := .high) s v rfl,
    exec_regWrite_of_resolveReg (r := .cx) (view := .high) s v rfl,
    exec_regWrite_of_resolveReg (r := .dx) (view := .high) s v rfl,
    exec_regWrite_of_resolveReg (r := .bx) (view := .high) s v rfl,
    exec_regWrite_of_resolveReg (r := .ax) (view := .word) s v rfl,
    exec_regWrite_of_resolveReg (r := .cx) (view := .word) s v rfl,
    exec_regWrite_of_resolveReg (r := .dx) (view := .word) s v rfl,
    exec_regWrite_of_resolveReg (r := .bx) (view := .word) s v rfl,
    exec_regWrite_of_resolveReg (r := .sp) (view := .word) s v rfl,
    exec_regWrite_of_resolveReg (r := .bp) (view := .word) s v rfl,
    exec_regWrite_of_resolveReg (r := .si) (view := .word) s v rfl,
    exec_regWrite_of_resolveReg (r := .di) (view := .word) s v rfl,
    exec_regWrite_of_ipName s v (rfl : resolveReg 16#5 = .ipName),
    fun sel hsel => exec_regWrite_of_noName s v ((resolveReg_eq_noName sel).2 hsel)⟩⟩

end Sys2Proof.Machine

/-! ### The instruction pointer: signed wraparound and the two commands (42_ip.md R58, R59) -/

namespace Sys2Proof.Machine

/-- An exact sum that left the signed range by less than one modulus re-enters it with one correction. -/
theorem bmod_two_pow_16_eq_ite {n : Int} (hlow : -65536 ≤ n) (hhigh : n < 65536) :
    n.bmod 65536 =
      if 32767 < n then n - 65536 else if n < -32768 then n + 65536 else n := by
  split_ifs with habove hbelow
  · rw [← Int.sub_bmod_right]
    exact Int.bmod_eq_of_le (by omega) (by omega)
  · rw [← Int.add_bmod_right]
    exact Int.bmod_eq_of_le (by omega) (by omega)
  · exact Int.bmod_eq_of_le (by omega) (by omega)

/-- Two signed words add up to less than one modulus away from zero, so addition modulo 2^16 is the
signed addition of R58. -/
theorem toInt_word_add (a d : Word) :
    (a + d).toInt =
      if 32767 < a.toInt + d.toInt then a.toInt + d.toInt - 65536
      else if a.toInt + d.toInt < -32768 then a.toInt + d.toInt + 65536
      else a.toInt + d.toInt := by
  have halow : -32768 ≤ a.toInt := BitVec.le_toInt a
  have hahigh : a.toInt < 32768 := BitVec.toInt_lt
  have hdlow : -32768 ≤ d.toInt := BitVec.le_toInt d
  have hdhigh : d.toInt < 32768 := BitVec.toInt_lt
  rw [BitVec.toInt_add]
  exact bmod_two_pow_16_eq_ite (by omega) (by omega)

/-- `IP_MODIFY` replaces `ip` by the sum and answers zero (R58). -/
theorem exec_ipModify (d : Word) (s : State) :
    exec (.ipModify d) s = .next { s with
      block := { s.block with ip := s.block.ip + d }
      responses := s.responses ++ [.reply .none 0x0000#16] } := by
  simp only [exec_eq, blockAfter, responseTo, adjustIp]

/-- `IP_READ` answers `ip` and leaves the block as it was (R59). -/
theorem exec_ipRead (s : State) :
    exec .ipRead s = .next { s with responses := s.responses ++ [.reply .none s.block.ip] } := by
  simp only [exec_eq, blockAfter, responseTo]

/-- Settles O22: the word is R34's packing; the next state is `exec_ipModify`'s; the signed clause is
a fact about the sum of two words. -/
theorem ipModifyAddsWithWraparound : Obligations.IpModifyAddsWithWraparound := by
  unfold Obligations.IpModifyAddsWithWraparound
  exact ⟨fun _ => rfl, fun d s => ⟨exec_ipModify d s, toInt_word_add s.block.ip d⟩⟩

/-- Settles O23: the word is R34's packing; the next state is `exec_ipRead`'s. -/
theorem ipReadAnswersTheInstructionPointer : Obligations.IpReadAnswersTheInstructionPointer := by
  unfold Obligations.IpReadAnswersTheInstructionPointer
  exact ⟨rfl, exec_ipRead⟩

end Sys2Proof.Machine

/-! ### The flags: the named one and no other (43_flags.md R61, R62) -/

namespace Sys2Proof.Machine

/-- The 0 or 1 of a flag is one bit below fifteen zeros: `DATA[15:1] = 0` (R61). -/
theorem boolWord_eq_append (b : Bool) : boolWord b = 0#15 ++ BitVec.ofBool b := by
  cases b <;> rfl

/-- The value of `FLAG_SET` stands in bit 16 of its word (R34, R39). -/
theorem encode_flagSet (sel : Selector) (b : Bool) :
    encode (.flagSet sel b) = 0#15 ++ BitVec.ofBool b ++ 0#8 ++ sel ++ 0b100#3 := by
  rw [← boolWord_eq_append]
  rfl

/-- A string that names no flag gets selector 31 (R38). -/
theorem flagSelector_of_ne {name : String} (hsign : name ≠ "sign") (hzero : name ≠ "zero") :
    flagSelector name = 31#5 := by
  unfold flagSelector
  split
  · exact absurd rfl hsign
  · exact absurd rfl hzero
  · rfl

/-- A completed flag write changes the named flag and answers zero (R61). -/
theorem exec_flagSet_of_resolveFlag {sel : Selector} {f : FlagName} (b : Bool) (s : State)
    (h : resolveFlag sel = .flag f) :
    exec (.flagSet sel b) s = .next { s with
      block := writeFlag s.block f b
      responses := s.responses ++ [.reply .none 0x0000#16] } := by
  simp only [exec_eq, blockAfter, responseTo, h]

theorem exec_flagSet_of_le {sel : Selector} (b : Bool) (s : State) (h : 2#5 ≤ sel) :
    exec (.flagSet sel b) s =
      .next { s with responses := s.responses ++ [.reply .unknownFlag 0x0000#16] } := by
  have hres : resolveFlag sel = .noName := (resolveFlag_eq_noName sel).2 h
  simp only [exec_eq, blockAfter, responseTo, hres]

theorem exec_setFlag_of_ne {name : String} (b : Bool) (s : State) (hsign : name ≠ "sign")
    (hzero : name ≠ "zero") :
    exec (callInstr (.setFlag name b)) s =
      .next { s with responses := s.responses ++ [.reply .unknownFlag 0x0000#16] } := by
  rw [callInstr, flagSelector_of_ne hsign hzero]
  exact exec_flagSet_of_le b s (by decide)

/-- A completed flag read changes the responses alone (R62). -/
theorem exec_flagRead_of_resolveFlag {sel : Selector} {f : FlagName} (s : State)
    (h : resolveFlag sel = .flag f) :
    exec (.flagRead sel) s = .next { s with
      responses := s.responses ++ [.reply .none (boolWord (readFlag s.block f))] } := by
  simp only [exec_eq, blockAfter, responseTo, h]

theorem exec_flagRead_of_le {sel : Selector} (s : State) (h : 2#5 ≤ sel) :
    exec (.flagRead sel) s =
      .next { s with responses := s.responses ++ [.reply .unknownFlag 0x0000#16] } := by
  have hres : resolveFlag sel = .noName := (resolveFlag_eq_noName sel).2 h
  simp only [exec_eq, blockAfter, responseTo, hres]

/-- Settles O25: selectors 0 and 1 resolve to the two flags and those from 2 on to none, and a string
that is neither flag's name has selector 31. -/
theorem flagSetWritesTheNamedFlag : Obligations.FlagSetWritesTheNamedFlag := by
  unfold Obligations.FlagSetWritesTheNamedFlag
  exact ⟨encode_flagSet, fun b s => ⟨
    exec_flagSet_of_resolveFlag (f := .sign) b s rfl,
    exec_flagSet_of_resolveFlag (f := .zero) b s rfl,
    fun _ hsel => exec_flagSet_of_le b s hsel,
    fun _ hsign hzero => exec_setFlag_of_ne b s hsign hzero⟩⟩

/-- Settles O26: the word is R34's packing; selectors 0 and 1 resolve to the two flags, each read as
its `boolWord`, and those from 2 on to none. -/
theorem flagReadAnswersTheNamedFlag : Obligations.FlagReadAnswersTheNamedFlag := by
  unfold Obligations.FlagReadAnswersTheNamedFlag
  exact ⟨fun _ => rfl, fun s => ⟨
    exec_flagRead_of_resolveFlag (f := .sign) s rfl,
    exec_flagRead_of_resolveFlag (f := .zero) s rfl,
    fun _ hsel => exec_flagRead_of_le s hsel⟩⟩

end Sys2Proof.Machine

/-! ### DUMP (44_diagnostic.md) -/

namespace Sys2Proof.Machine

/-- `DUMP` appends its snapshot to the responses and changes nothing else (R66). -/
theorem exec_dump (s : State) :
    exec .dump s = .next { s with
      responses := s.responses ++ [.snapshot (snapshotOf s.block)] } := by
  simp only [exec_eq, blockAfter, responseTo]

/-- Settles O27: the word is R34's packing; the next state is `exec_dump`'s, whose snapshot lists the
eleven words with each flag as its `boolWord`. -/
theorem dumpAnswersTheSnapshot : Obligations.DumpAnswersTheSnapshot := by
  unfold Obligations.DumpAnswersTheSnapshot
  exact ⟨rfl, exec_dump⟩

end Sys2Proof.Machine

/-! ### The three errors: who raises them, and that they change no state (60_exceptions.md) -/

namespace Sys2Proof.Machine

/-- Which command fails with which error, read off its selector alone (R68 to R70): no component of
the block and no written value decides it. -/
inductive FailsWith : Instr → ErrorKind → Prop
  | regRead {sel : Selector} (h : 16#5 ≤ sel) : FailsWith (.regRead sel) .unknownRegister
  | regWrite {sel : Selector} (v : Word) (h : 17#5 ≤ sel) :
      FailsWith (.regWrite sel v) .unknownRegister
  | regWriteIp (v : Word) : FailsWith (.regWrite 16#5 v) .invalidOperation
  | flagSet {sel : Selector} (b : Bool) (h : 2#5 ≤ sel) : FailsWith (.flagSet sel b) .unknownFlag
  | flagRead {sel : Selector} (h : 2#5 ≤ sel) : FailsWith (.flagRead sel) .unknownFlag

/-- A failed command appends its error with result zero and changes nothing else (R71). -/
theorem exec_of_failsWith {i : Instr} {k : ErrorKind} (h : FailsWith i k) (s : State) :
    exec i s = .next { s with responses := s.responses ++ [.reply k 0x0000#16] } := by
  cases h with
  | regRead hsel => exact exec_regRead_of_le s hsel
  | regWrite v hsel => exact exec_regWrite_of_noName s v ((resolveReg_eq_noName _).2 hsel)
  | regWriteIp v => exact exec_regWrite_of_ipName s v rfl
  | flagSet b hsel => exact exec_flagSet_of_le b s hsel
  | flagRead hsel => exact exec_flagRead_of_le s hsel

/-- A selector that resolves to no register view is 16 or above (R36). -/
theorem le_of_resolveReg_ne_reg {sel : Selector} (h : ∀ r view, resolveReg sel ≠ .reg r view) :
    16#5 ≤ sel := by
  rw [← BitVec.not_lt]
  intro hlt
  obtain ⟨r, view, hres⟩ := exists_resolveReg_eq_reg hlt
  exact h r view hres

/-- The failures of `FailsWith` are all there are: every other response is a success or a
snapshot. -/
theorem failsWith_of_responseTo {i : Instr} {b : Block} {k : ErrorKind} {r : Word} (hk : k ≠ .none)
    (h : responseTo i b = .reply k r) : FailsWith i k := by
  cases i with
  | regRead sel =>
    cases hres : resolveReg sel with
    | reg x view =>
      simp only [responseTo, hres] at h
      exact absurd (Response.reply.inj h).1.symm hk
    | ipName | noName =>
      simp only [responseTo, hres] at h
      obtain ⟨rfl, -⟩ := Response.reply.inj h
      exact .regRead (le_of_resolveReg_ne_reg (by simp [hres]))
  | regWrite sel v =>
    simp only [responseTo] at h
    split at h <;> obtain ⟨rfl, -⟩ := Response.reply.inj h
    next => exact absurd rfl hk
    next hres => exact (resolveReg_eq_ipName sel).1 hres ▸ .regWriteIp v
    next hres => exact .regWrite v ((resolveReg_eq_noName sel).1 hres)
  | flagSet sel v =>
    simp only [responseTo] at h
    split at h <;> obtain ⟨rfl, -⟩ := Response.reply.inj h
    next => exact absurd rfl hk
    next hres => exact .flagSet v ((resolveFlag_eq_noName sel).1 hres)
  | flagRead sel =>
    simp only [responseTo] at h
    split at h <;> obtain ⟨rfl, -⟩ := Response.reply.inj h
    next => exact absurd rfl hk
    next hres => exact .flagRead ((resolveFlag_eq_noName sel).1 hres)
  | ipModify d => exact absurd (Response.reply.inj h).1.symm hk
  | ipRead => exact absurd (Response.reply.inj h).1.symm hk
  | dump => nomatch h

/-- The response a completed command appended is the one of `exec_eq`. -/
theorem responseTo_eq_of_exec {i : Instr} {s t : State} {r : Response} (h : exec i s = .next t)
    (hr : t.responses = s.responses ++ [r]) : responseTo i s.block = r := by
  rw [exec_next h] at hr
  exact List.singleton_inj.1 (List.append_cancel_left hr)

/-- An error appended by a command says which failure it was, and so the whole next state. -/
theorem failsWith_of_exec {i : Instr} {s t : State} {k : ErrorKind} {r : Word} (hk : k ≠ .none)
    (h : exec i s = .next t) (hr : t.responses = s.responses ++ [.reply k r]) :
    FailsWith i k ∧ t = { s with responses := s.responses ++ [.reply k 0x0000#16] } := by
  have hfail : FailsWith i k := failsWith_of_responseTo hk (responseTo_eq_of_exec h hr)
  rw [exec_of_failsWith hfail s] at h
  exact ⟨hfail, (Host.Outcome.next.inj h).symm⟩

/-- An answer that is an error is one of the failures, with result zero. -/
theorem answers_error_iff {i : Instr} {s : State} {k : ErrorKind} {r : Word} (hk : k ≠ .none) :
    Answers i s (.reply k r) ↔ r = 0x0000#16 ∧ FailsWith i k := by
  constructor
  · rintro ⟨t, hexec, hresp⟩
    obtain ⟨hfail, rfl⟩ := failsWith_of_exec hk hexec hresp
    exact ⟨by simpa using hresp.symm, hfail⟩
  · rintro ⟨rfl, hfail⟩
    exact ⟨_, exec_of_failsWith hfail s, rfl⟩

theorem failsWith_unknownRegister_iff {i : Instr} :
    FailsWith i .unknownRegister ↔
      (∃ sel, i = .regRead sel ∧ 16#5 ≤ sel) ∨ ∃ sel v, i = .regWrite sel v ∧ 17#5 ≤ sel := by
  constructor
  · intro h
    cases h with
    | regRead hsel => exact .inl ⟨_, rfl, hsel⟩
    | regWrite v hsel => exact .inr ⟨_, v, rfl, hsel⟩
  · rintro (⟨sel, rfl, hsel⟩ | ⟨sel, v, rfl, hsel⟩)
    · exact .regRead hsel
    · exact .regWrite v hsel

theorem failsWith_unknownFlag_iff {i : Instr} :
    FailsWith i .unknownFlag ↔
      (∃ sel b, i = .flagSet sel b ∧ 2#5 ≤ sel) ∨ ∃ sel, i = .flagRead sel ∧ 2#5 ≤ sel := by
  constructor
  · intro h
    cases h with
    | flagSet b hsel => exact .inl ⟨_, b, rfl, hsel⟩
    | flagRead hsel => exact .inr ⟨_, rfl, hsel⟩
  · rintro (⟨sel, b, rfl, hsel⟩ | ⟨sel, rfl, hsel⟩)
    · exact .flagSet b hsel
    · exact .flagRead hsel

theorem failsWith_invalidOperation_iff {i : Instr} :
    FailsWith i .invalidOperation ↔ ∃ v, i = .regWrite 16#5 v := by
  constructor
  · intro h
    cases h with
    | regWriteIp v => exact ⟨v, rfl⟩
  · rintro ⟨v, rfl⟩
    exact .regWriteIp v

/-- A string that is no register name and not `ip` gets selector 31 (R38). -/
theorem regSelector_of_not_mem {name : String} (hname : name ∉ registerNames) (hip : name ≠ "ip") :
    regSelector name = 31#5 := by
  revert hname hip
  unfold regSelector
  split <;> simp [registerNames]

/-- A string that is no register name, `ip` among them, gets a selector that no read accepts. -/
theorem le_regSelector_of_not_mem {name : String} (hname : name ∉ registerNames) :
    16#5 ≤ regSelector name := by
  by_cases hip : name = "ip"
  · subst hip; decide
  · rw [regSelector_of_not_mem hname hip]; decide

/-- A string that is no flag name gets selector 31 (R38). -/
theorem flagSelector_of_not_mem {name : String} (hname : name ∉ flagNames) :
    flagSelector name = 31#5 := by
  obtain ⟨hsign, hzero⟩ : name ≠ "sign" ∧ name ≠ "zero" := by simpa [flagNames] using hname
  exact flagSelector_of_ne hsign hzero

/-- Settles O35: an `UnknownRegister` answer is one of the failures of `FailsWith`, and a string that
is no register name has selector 31 or, for a read of `ip`, 16. -/
theorem unknownRegisterIsRaisedExactlyThere : Obligations.UnknownRegisterIsRaisedExactlyThere := by
  unfold Obligations.UnknownRegisterIsRaisedExactlyThere
  refine ⟨fun i s r => ?_, fun name s hname => ⟨?_, fun hip v => ?_⟩⟩
  · rw [answers_error_iff (by decide), failsWith_unknownRegister_iff]
  · exact (answers_error_iff (by decide)).2 ⟨rfl, .regRead (le_regSelector_of_not_mem hname)⟩
  · have hsel : 17#5 ≤ regSelector name := by rw [regSelector_of_not_mem hname hip]; decide
    exact (answers_unknownRegister hsel s).2 _

/-- Settles O36: an `UnknownFlag` answer is one of the failures of `FailsWith`, and a string that is
no flag name has selector 31. -/
theorem unknownFlagIsRaisedExactlyThere : Obligations.UnknownFlagIsRaisedExactlyThere := by
  unfold Obligations.UnknownFlagIsRaisedExactlyThere
  refine ⟨fun i s r => ?_, fun name s hname => ?_⟩
  · rw [answers_error_iff (by decide), failsWith_unknownFlag_iff]
  · have hsel : 2#5 ≤ flagSelector name := by rw [flagSelector_of_not_mem hname]; decide
    obtain ⟨hread, hset⟩ := answers_unknownFlag hsel s
    exact ⟨hset, hread⟩

/-- Settles O37: the one failure with `InvalidOperation` is the write of selector 16, which is the
selector of the string `ip`. -/
theorem invalidOperationIsRaisedExactlyThere : Obligations.InvalidOperationIsRaisedExactlyThere := by
  unfold Obligations.InvalidOperationIsRaisedExactlyThere
  refine ⟨fun i s r => ?_, fun v s => ?_⟩
  · rw [answers_error_iff (by decide), failsWith_invalidOperation_iff]
  · exact (answers_error_iff (by decide)).2 ⟨rfl, .regWriteIp _⟩

/-- Settles O38: a command answered by an error is one of the failures, whose next state keeps the
block, and by `exec_eq` the block alone decides what the command after it does and answers. -/
theorem failedCommandChangesNoState : Obligations.FailedCommandChangesNoState := by
  unfold Obligations.FailedCommandChangesNoState
  intro i s t k r hk hexec hresp
  obtain ⟨-, rfl⟩ := failsWith_of_exec hk hexec hresp
  refine ⟨rfl, fun j u hnext => ?_⟩
  obtain rfl := exec_next hnext
  exact ⟨_, responseTo j s.block, exec_eq j _, rfl, rfl, rfl⟩

end Sys2Proof.Machine

/-! ### Encoding: the round trip, the words as numbers and the opcode table (30_encoding.md) -/

namespace Sys2Proof

/-- No bit of a command is lost in its word (R34, R45). -/
@[simp] theorem decode_encode (i : Instr) : decode (encode i) = .ok i := by
  cases i with
  | regRead sel => exact decode_packWord 0b000#3 sel 0#16
  | regWrite sel value => exact decode_packWord 0b001#3 sel value
  | ipModify delta => exact decode_packWord 0b010#3 0#5 delta
  | ipRead => exact decode_packWord 0b011#3 0#5 0#16
  | flagSet sel value =>
    cases value with
    | false => exact decode_packWord 0b100#3 sel 0#16
    | true => exact decode_packWord 0b100#3 sel 1#16
  | flagRead sel => exact decode_packWord 0b101#3 sel 0#16
  | dump => exact decode_packWord 0b110#3 0#5 0#16

/-- A word whose bits [15:1] are zero is its bit 0: the data a `FLAG_SET` may carry (R42). -/
theorem flagValue_data_of_upper_zero {data : Word} (h : data.extractLsb' 1 15 = 0#15) :
    (if flagValue data then 1#16 else 0#16) = data := by
  have hdiv := congrArg BitVec.toNat h
  simp only [BitVec.extractLsb'_toNat, BitVec.toNat_ofNat, Nat.shiftRight_eq_div_pow] at hdiv
  have hlt : data.toNat < 2 := by omega
  have hcases : data = 0#16 ∨ data = 1#16 := by bv_omega
  rcases hcases with rfl | rfl <;> rfl

/-- What passes a refusing guard of R45 is what stands behind it. -/
theorem guard_eq_ok_iff {p : Prop} [Decidable p] (e : DecodeRefusal)
    (x : Except DecodeRefusal Instr) (i : Instr) :
    (if p then .error e else x) = .ok i ↔ ¬ p ∧ x = .ok i := by
  by_cases h : p <;> simp [h]

/-- The fields of R45 are packed again into the word of the command they decode to. -/
theorem encode_of_decodeFields {op : BitVec 3} {sel : Selector} {data : Word} {i : Instr}
    (h : decodeFields op sel data = .ok i) : encode i = packWord op sel data := by
  rcases operation_cases op with rfl | rfl | rfl | rfl | rfl | rfl | rfl | rfl <;>
    simp only [decodeFields, guard_eq_ok_iff, ne_eq, not_not, Except.ok.injEq] at h
  · obtain ⟨rfl, rfl⟩ := h; rfl
  · obtain rfl := h; rfl
  · obtain ⟨rfl, rfl⟩ := h; rfl
  · obtain ⟨rfl, rfl, rfl⟩ := h; rfl
  · obtain ⟨hdata, rfl⟩ := h
    rw [encode, flagValue_data_of_upper_zero hdata]
  · obtain ⟨rfl, rfl⟩ := h; rfl
  · obtain ⟨rfl, rfl, rfl⟩ := h; rfl
  · nomatch h

/-- The decoder and the encoder are one relation between words and commands. -/
theorem decode_eq_ok_iff (w : CmdWord) (i : Instr) : decode w = .ok i ↔ encode i = w := by
  refine ⟨fun h => ?_, fun h => h ▸ decode_encode i⟩
  obtain ⟨hrsv, hfields⟩ := decodeFields_of_decode h
  rw [encode_of_decodeFields hfields, packWord_fields w hrsv]

/-- Settles O4: each command's word is packed from the fields that R45 reads back. -/
theorem decodeOfEncodeIsTheCommand : Obligations.DecodeOfEncodeIsTheCommand := by
  unfold Obligations.DecodeOfEncodeIsTheCommand
  exact decode_encode

/-- Settles O5: an accepted word has `RSV` zero, so it is packed from the fields that were decoded. -/
theorem encodeOfDecodeIsTheWord : Obligations.EncodeOfDecodeIsTheWord := by
  unfold Obligations.EncodeOfDecodeIsTheWord
  exact fun w i h => (decode_eq_ok_iff w i).1 h

/-- The fields of a word stand side by side without overlap (R34). -/
theorem toNat_packWord (op : BitVec 3) (sel : Selector) (data : Word) :
    (packWord op sel data).toNat = data.toNat * 65536 + sel.toNat * 8 + op.toNat := by
  rw [packWord, BitVec.toNat_append, BitVec.toNat_append, BitVec.toNat_append,
    ← Nat.shiftLeft_add_eq_or_of_lt op.isLt, ← Nat.shiftLeft_add_eq_or_of_lt sel.isLt,
    ← Nat.shiftLeft_add_eq_or_of_lt (0#8).isLt]
  simp only [Nat.shiftLeft_eq, BitVec.toNat_ofNat]
  omega

/-- Settles O8: each command's word is packed from its fields, and a packed word is their weighted
sum. -/
theorem commandWordsAreTheTabledNumbers : Obligations.CommandWordsAreTheTabledNumbers := by
  unfold Obligations.CommandWordsAreTheTabledNumbers
  refine ⟨fun sel => ?_, fun sel v => ?_, fun d => ?_, rfl, fun sel b => ?_, fun sel => ?_, rfl⟩
  · simp [encode, toNat_packWord]
  · simp [encode, toNat_packWord]
  · simp [encode, toNat_packWord]
  · cases b <;> simp [encode, toNat_packWord]
  · simp [encode, toNat_packWord]

/-- Settles O9: the seven words are evaluated. -/
theorem specWordsDecodeAsWritten : Obligations.SpecWordsDecodeAsWritten := by
  unfold Obligations.SpecWordsDecodeAsWritten
  decide

/-- A word is packed from given fields exactly when they are its fields and `RSV` is zero. -/
theorem packWord_eq_iff (op : BitVec 3) (sel : Selector) (data : Word) (w : CmdWord) :
    packWord op sel data = w ↔
      opField w = op ∧ selField w = sel ∧ rsvField w = 0#8 ∧ dataField w = data := by
  constructor
  · rintro rfl
    exact ⟨opField_packWord op sel data, selField_packWord op sel data,
      rsvField_packWord op sel data, dataField_packWord op sel data⟩
  · rintro ⟨rfl, rfl, hrsv, rfl⟩
    exact packWord_fields w hrsv

/-- The data words of a `FLAG_SET` are those with bits [15:1] zero (R42). -/
theorem exists_flagData_eq_iff (data : Word) :
    (∃ b : Bool, data = if b then 1#16 else 0#16) ↔ data.extractLsb' 1 15 = 0#15 := by
  constructor
  · rintro ⟨b, rfl⟩
    cases b <;> rfl
  · exact fun h => ⟨flagValue data, (flagValue_data_of_upper_zero h).symm⟩

/-- An operation in its place is inside the operation's mask. -/
theorem setWidth_and_opMask (op : BitVec 3) :
    op.setWidth 32 &&& 0x00000007#32 = op.setWidth 32 := by revert op; decide

/-- A mask that takes the whole operation, and of the other bits some that must be zero, is matched
exactly by the words of that operation with those bits zero. -/
theorem and_opMask_or_eq_iff (w m : CmdWord) (op : BitVec 3) (hm : 0x00000007#32 &&& m = 0#32) :
    w &&& (0x00000007#32 ||| m) = op.setWidth 32 ↔ opField w = op ∧ w &&& m = 0#32 := by
  have hinj : ∀ a b : BitVec 3, a.setWidth 32 = b.setWidth 32 → a = b := by decide
  have hdisjoint : ∀ a : BitVec 3, a.setWidth 32 &&& m = 0#32 := fun a => by
    rw [← setWidth_and_opMask, BitVec.and_assoc, hm, BitVec.and_zero]
  rw [BitVec.and_or_distrib_left, and_opMask]
  constructor
  · intro h
    have hzero : w &&& m = 0#32 := by
      simpa [BitVec.and_or_distrib_right, BitVec.and_assoc, hdisjoint] using congrArg (· &&& m) h
    rw [hzero, BitVec.or_zero] at h
    exact ⟨hinj _ _ h, hzero⟩
  · rintro ⟨rfl, h⟩
    rw [h, BitVec.or_zero]

theorem rsvMask_iff (w : CmdWord) : w &&& 0x0000FF00#32 = 0#32 ↔ rsvField w = 0#8 := by
  simpa [rsvZero] using rsvZero_iff w

/-- The masks of the two commands that take a selector and no data. -/
theorem selectorMask_iff (w : CmdWord) (op : BitVec 3) :
    w &&& 0xFFFFFF07#32 = op.setWidth 32 ↔
      opField w = op ∧ rsvField w = 0#8 ∧ dataField w = 0#16 := by
  have hdata : w &&& 0xFFFF0000#32 = 0#32 ↔ dataField w = 0#16 := by simpa using dataMask_iff w
  rw [← rsvMask_iff, ← hdata, ← BitVec.or_eq_zero_iff, ← BitVec.and_or_distrib_left]
  exact and_opMask_or_eq_iff w 0xFFFFFF00#32 op rfl

theorem regWriteMask_iff (w : CmdWord) :
    w &&& 0x0000FF07#32 = 0x00000001#32 ↔ opField w = 0b001#3 ∧ rsvField w = 0#8 := by
  rw [← rsvMask_iff]
  exact and_opMask_or_eq_iff w 0x0000FF00#32 0b001#3 rfl

theorem ipModifyMask_iff (w : CmdWord) :
    w &&& 0x0000FFFF#32 = 0x00000002#32 ↔
      opField w = 0b010#3 ∧ selField w = 0#5 ∧ rsvField w = 0#8 := by
  have hsel : w &&& 0x000000F8#32 = 0#32 ↔ selField w = 0#5 := by simpa using selMask_iff w
  rw [← rsvMask_iff, ← hsel, ← BitVec.or_eq_zero_iff, ← BitVec.and_or_distrib_left]
  exact and_opMask_or_eq_iff w 0x0000FFF8#32 0b010#3 rfl

theorem flagSetMask_iff (w : CmdWord) :
    w &&& 0xFFFEFF07#32 = 0x00000004#32 ↔
      opField w = 0b100#3 ∧ rsvField w = 0#8 ∧ (dataField w).extractLsb' 1 15 = 0#15 := by
  have hflag : w &&& 0xFFFE0000#32 = 0#32 ↔ (dataField w).extractLsb' 1 15 = 0#15 := by
    simpa using flagMask_iff w
  rw [← rsvMask_iff, ← hflag, ← BitVec.or_eq_zero_iff, ← BitVec.and_or_distrib_left]
  exact and_opMask_or_eq_iff w 0xFFFEFF00#32 0b100#3 rfl

/-- Settles O7: a word decodes to a row's command when it is packed from the row's operation, a zero
`RSV` and operands the row leaves free, which are the fields its mask looks at. -/
theorem opcodeTableMasksSelectCommands : Obligations.OpcodeTableMasksSelectCommands := by
  unfold Obligations.OpcodeTableMasksSelectCommands
  intro w
  have hfull : w &&& 0xFFFFFFFF#32 = w := BitVec.and_allOnes
  refine ⟨?_, ?_, ?_, ?_, ?_, ?_, ?_⟩
  · refine Iff.trans ?_ (selectorMask_iff w 0b000#3).symm
    simp [decode_eq_ok_iff, encode, packWord_eq_iff]
  · rw [regWriteMask_iff]
    simp [decode_eq_ok_iff, encode, packWord_eq_iff]
  · rw [ipModifyMask_iff]
    simp [decode_eq_ok_iff, encode, packWord_eq_iff]
  · rw [decode_eq_ok_iff, hfull]
    exact eq_comm
  · rw [flagSetMask_iff, ← exists_flagData_eq_iff]
    simp [decode_eq_ok_iff, encode, packWord_eq_iff]
  · refine Iff.trans ?_ (selectorMask_iff w 0b101#3).symm
    simp [decode_eq_ok_iff, encode, packWord_eq_iff]
  · rw [decode_eq_ok_iff, hfull]
    exact eq_comm

end Sys2Proof

/-! ### Responses: their packing and their form (30_encoding.md R40, R41, 44_diagnostic.md R64) -/

namespace Sys2Proof.Machine

/-- `ERR` and `RESULT` of a response word are its two low parts (R40). -/
theorem responseWord_fields (k : ErrorKind) (r : Word) :
    ∃ w : BitVec 32, responseWord (.reply k r) = some w ∧
      w.extractLsb' 16 2 = errorCode k ∧ w.extractLsb' 0 16 = r ∧ w.extractLsb' 18 14 = 0#14 := by
  refine ⟨_, rfl, ?_, BitVec.extractLsb'_append_eq_right, ?_⟩
  · rw [BitVec.extractLsb'_append_eq_of_le (by decide)]
    exact BitVec.extractLsb'_append_eq_right
  · rw [BitVec.extractLsb'_append_eq_of_le (by decide)]
    exact BitVec.extractLsb'_append_eq_left

/-- Settles O10: the codes are R41's, and the packed parts do not overlap. -/
theorem responseWordHoldsErrorAndResult : Obligations.ResponseWordHoldsErrorAndResult := by
  unfold Obligations.ResponseWordHoldsErrorAndResult
  exact ⟨⟨rfl, rfl, rfl, rfl⟩, responseWord_fields⟩

/-- Settles O2: the reset state has given no response. -/
theorem resetResponsesWellFormed : Obligations.ResetResponsesWellFormed := by
  unfold Obligations.ResetResponsesWellFormed
  rfl

/-- A Boolean's result word is 0 or 1 (R64). -/
theorem boolWord_eq_zero_or_one (b : Bool) : boolWord b = 0x0000#16 ∨ boolWord b = 0x0001#16 := by
  cases b
  · exact .inl rfl
  · exact .inr rfl

/-- A snapshot's last two words are its flags. -/
theorem wf_snapshotOf (b : Block) : (Response.snapshot (snapshotOf b)).wf = true := by
  have hsign := boolWord_eq_zero_or_one (readFlag b .sign)
  have hzero := boolWord_eq_zero_or_one (readFlag b .zero)
  simpa [Response.wf, snapshotOf] using And.intro hsign hzero

/-- Every command's response has its form, in every block: a reply is a success or carries zero. -/
theorem wf_responseTo (i : Instr) (b : Block) : (responseTo i b).wf = true := by
  cases i with
  | regRead sel | regWrite sel v =>
    rw [responseTo]
    cases resolveReg sel <;> rfl
  | flagSet sel v | flagRead sel =>
    rw [responseTo]
    cases resolveFlag sel <;> rfl
  | ipModify d | ipRead => rfl
  | dump => exact wf_snapshotOf b

/-- Settles O3: a step gives no response or appends a command's, which has its form. -/
theorem stepKeepsResponsesWellFormed : Obligations.StepKeepsResponsesWellFormed := by
  unfold Obligations.StepKeepsResponsesWellFormed
  intro s t hwf hstep
  obtain ⟨-, rfl⟩ | ⟨w, rest, i, -, -, rfl⟩ := step_cases hstep
  · exact hwf
  · simpa [responsesWf, wf_responseTo] using hwf

/-! ### The step and the commands: what each does, said of all of them (20_memory.md) -/

/-- A step takes the next word off the stream and carries out the command it decodes to (R30). -/
theorem step_of_decode {s : State} {w : CmdWord} {rest : List CmdWord} {i : Instr}
    (hcommands : s.commands = w :: rest) (hdecode : decode w = .ok i) :
    step s = exec i { s with commands := rest } := by
  rw [step_cons hcommands, execWord, hdecode]

/-- Settles O11: by `step_of_decode`. -/
theorem stepRunsTheDecodedCommand : Obligations.StepRunsTheDecodedCommand := by
  unfold Obligations.StepRunsTheDecodedCommand
  exact fun _ _ _ _ hcommands hdecode => step_of_decode hcommands hdecode

/-- Settles O12: with an empty stream the step is idle. -/
theorem stepWithoutCommandChangesNothing : Obligations.StepWithoutCommandChangesNothing := by
  unfold Obligations.StepWithoutCommandChangesNothing
  exact fun _ hcommands => step_nil hcommands

/-- Settles O13: the next state of `exec_eq` has one response more and the same stream. -/
theorem everyCommandIsAnsweredOnce : Obligations.EveryCommandIsAnsweredOnce := by
  unfold Obligations.EveryCommandIsAnsweredOnce
  exact fun i s => ⟨_, responseTo i s.block, exec_eq i s, rfl, rfl⟩

/-- Settles O32: by `exec_eq` the block and the response are functions of the block. -/
theorem commandsDependOnTheBlockAlone : Obligations.CommandsDependOnTheBlockAlone := by
  unfold Obligations.CommandsDependOnTheBlockAlone
  intro i s s' t hblock hexec
  obtain rfl := exec_next hexec
  exact ⟨_, responseTo i s.block, exec_eq i s', by simp [hblock], rfl, by simp [hblock]⟩

/-- Settles O24: modulo 2^16, `ip + (v - ip)` is `v`. -/
theorem anyIpIsReachedByOneDelta : Obligations.AnyIpIsReachedByOneDelta := by
  unfold Obligations.AnyIpIsReachedByOneDelta
  exact fun v s => ⟨_, exec_ipModify _ s, by simp⟩

/-- A cell is rebuilt from its quotient and remainder by 256 (R48, R49). -/
theorem cellGetHigh_append_cellGetLow (c : Word) : (cellGetHigh c ++ cellGetLow c : Word) = c := by
  refine BitVec.eq_of_toNat_eq ?_
  rw [toNat_byte_append, toNat_cellGetHigh, toNat_cellGetLow]
  omega

/-- Settles O16: by `cellGetHigh_append_cellGetLow`. -/
theorem cellIsHighByteThenLowByte : Obligations.CellIsHighByteThenLowByte := by
  unfold Obligations.CellIsHighByteThenLowByte
  exact fun c => (cellGetHigh_append_cellGetLow c).symm

end Sys2Proof.Machine

/-! ### Frames: what each command leaves unchanged (20_memory.md R29, 41_register_access.md R57) -/

namespace Sys2Proof.Machine

/-- All that a command can do to the block: nothing, one view of one word, `ip`, or one flag (R29). -/
theorem blockAfter_cases (i : Instr) (b : Block) :
    blockAfter i b = b ∨
    (∃ sel v r view, i = .regWrite sel v ∧ resolveReg sel = .reg r view ∧
      blockAfter i b = writeReg b r view v) ∨
    (∃ d, i = .ipModify d ∧ blockAfter i b = { b with ip := b.ip + d }) ∨
    (∃ sel v f, i = .flagSet sel v ∧ resolveFlag sel = .flag f ∧
      blockAfter i b = writeFlag b f v) := by
  cases i with
  | regWrite sel v =>
    cases hres : resolveReg sel with
    | reg r view => exact .inr (.inl ⟨sel, v, r, view, rfl, hres, by simp only [blockAfter, hres]⟩)
    | ipName | noName => exact .inl (by simp only [blockAfter, hres])
  | ipModify d => exact .inr (.inr (.inl ⟨d, rfl, rfl⟩))
  | flagSet sel v =>
    cases hres : resolveFlag sel with
    | flag f => exact .inr (.inr (.inr ⟨sel, v, f, rfl, hres, by simp only [blockAfter, hres]⟩))
    | noName => exact .inl (by simp only [blockAfter, hres])
  | regRead sel | ipRead | flagRead sel | dump => exact .inl rfl

/-- A command that changes `ip` is an `IP_MODIFY` (R17). -/
theorem eq_ipModify_of_ip_ne {i : Instr} {b : Block} (h : (blockAfter i b).ip ≠ b.ip) :
    ∃ d, i = .ipModify d ∧ blockAfter i b = { b with ip := b.ip + d } := by
  obtain hb | ⟨sel, v, r, view, -, -, hb⟩ | hip | ⟨sel, v, f, -, -, hb⟩ := blockAfter_cases i b
  · exact absurd (congrArg Block.ip hb) h
  · exact absurd (by rw [hb, writeReg_ip]) h
  · exact hip
  · exact absurd (by rw [hb, writeFlag_ip]) h

@[simp] theorem readFlag_writeReg (b : Block) (r : RegWord) (view : View) (v : Word) (f : FlagName) :
    readFlag (writeReg b r view v) f = readFlag b f := by
  cases f
  · exact writeReg_sign b r view v
  · exact writeReg_zero b r view v

/-- A command that changes a flag is a `FLAG_SET` that names it (R20). -/
theorem eq_flagSet_of_readFlag_ne {i : Instr} {b : Block} {f : FlagName}
    (h : readFlag (blockAfter i b) f ≠ readFlag b f) :
    ∃ sel v, i = .flagSet sel v ∧ resolveFlag sel = .flag f ∧
      blockAfter i b = writeFlag b f v := by
  obtain hb | ⟨sel, v, r, view, -, -, hb⟩ | ⟨d, -, hb⟩ | ⟨sel, v, f', hi, hres, hb⟩ :=
    blockAfter_cases i b <;> rw [hb] at h
  · exact absurd rfl h
  · exact absurd (readFlag_writeReg b r view v f) h
  · exact absurd (readFlag_setIp b (b.ip + d) f) h
  · obtain rfl : f = f' := by
      by_contra hne
      exact h (readFlag_writeFlag_other b v hne)
    exact ⟨sel, v, hi, hres, hb⟩

/-- A command that changes a storage word is a `REG_WRITE` whose selector resolves to it (R55). -/
theorem eq_regWrite_of_readWord_ne {i : Instr} {b : Block} {r : RegWord}
    (h : readWord (blockAfter i b) r ≠ readWord b r) :
    ∃ sel v view, i = .regWrite sel v ∧ resolveReg sel = .reg r view ∧
      blockAfter i b = writeReg b r view v := by
  obtain hb | ⟨sel, v, r', view, hi, hres, hb⟩ | ⟨d, -, hb⟩ | ⟨sel, v, f, -, -, hb⟩ :=
    blockAfter_cases i b <;> rw [hb] at h
  · exact absurd rfl h
  · obtain rfl : r = r' := by
      by_contra hne
      exact h (by rw [readWord_writeReg, if_neg hne])
    exact ⟨sel, v, view, hi, hres, hb⟩
  · exact absurd (readWord_setIp b (b.ip + d) r) h
  · exact absurd (readWord_writeFlag b f v r) h

/-- A step that changes the block carried out the command of its next word. -/
theorem exists_decode_of_block_ne {s t : State} (hstep : step s = .next t)
    (hne : t.block ≠ s.block) :
    ∃ w rest i, s.commands = w :: rest ∧ decode w = .ok i ∧ t.block = blockAfter i s.block := by
  obtain ⟨-, rfl⟩ | ⟨w, rest, i, hcommands, hdecode, rfl⟩ := step_cases hstep
  · exact absurd rfl hne
  · exact ⟨w, rest, i, hcommands, hdecode, rfl⟩

/-- Settles O29: the step carried out a command, and only `IP_MODIFY` changes `ip`. -/
theorem onlyIpModifyChangesIp : Obligations.OnlyIpModifyChangesIp := by
  unfold Obligations.OnlyIpModifyChangesIp
  intro s t hstep hne
  obtain ⟨w, rest, i, hcommands, hdecode, hblock⟩ :=
    exists_decode_of_block_ne hstep fun h => hne (congrArg Block.ip h)
  rw [hblock] at hne ⊢
  obtain ⟨d, rfl, hip⟩ := eq_ipModify_of_ip_ne hne
  exact ⟨w, rest, d, hcommands, hdecode, hip⟩

/-- A step that changes a flag carried out a `FLAG_SET` whose selector resolves to it. -/
theorem exists_flagSet_of_readFlag_ne {s t : State} {f : FlagName} (hstep : step s = .next t)
    (hne : readFlag t.block f ≠ readFlag s.block f) :
    ∃ w rest sel v, s.commands = w :: rest ∧ decode w = .ok (.flagSet sel v) ∧
      resolveFlag sel = .flag f ∧ t.block = writeFlag s.block f v := by
  obtain ⟨w, rest, i, hcommands, hdecode, hblock⟩ :=
    exists_decode_of_block_ne hstep fun h => hne (congrArg (readFlag · f) h)
  rw [hblock] at hne ⊢
  obtain ⟨sel, v, rfl, hres, hflag⟩ := eq_flagSet_of_readFlag_ne hne
  exact ⟨w, rest, sel, v, hcommands, hdecode, hres, hflag⟩

/-- Each flag has one selector (R37). -/
theorem resolveFlag_eq_sign (sel : Selector) : resolveFlag sel = .flag .sign ↔ sel = 0#5 := by
  revert sel; decide

theorem resolveFlag_eq_zero (sel : Selector) : resolveFlag sel = .flag .zero ↔ sel = 1#5 := by
  revert sel; decide

/-- Settles O30: the step carried out a `FLAG_SET` of that flag, whose one selector is R37's. -/
theorem onlyFlagSetChangesFlags : Obligations.OnlyFlagSetChangesFlags := by
  unfold Obligations.OnlyFlagSetChangesFlags
  intro s t hstep
  constructor <;> intro hne
  · obtain ⟨w, rest, sel, v, hcommands, hdecode, hres, hblock⟩ :=
      exists_flagSet_of_readFlag_ne (f := .sign) hstep hne
    obtain rfl := (resolveFlag_eq_sign sel).1 hres
    exact ⟨w, rest, v, hcommands, hdecode, hblock⟩
  · obtain ⟨w, rest, sel, v, hcommands, hdecode, hres, hblock⟩ :=
      exists_flagSet_of_readFlag_ne (f := .zero) hstep hne
    obtain rfl := (resolveFlag_eq_zero sel).1 hres
    exact ⟨w, rest, v, hcommands, hdecode, hblock⟩

/-- Settles O31: the step carried out a `REG_WRITE` of that word, and a register write keeps `ip` and
the flags. -/
theorem onlyRegWriteChangesRegisters : Obligations.OnlyRegWriteChangesRegisters := by
  unfold Obligations.OnlyRegWriteChangesRegisters
  intro s t r hstep hne
  obtain ⟨w, rest, i, hcommands, hdecode, hblock⟩ :=
    exists_decode_of_block_ne hstep fun h => hne (congrArg (readWord · r) h)
  rw [hblock] at hne ⊢
  obtain ⟨sel, v, view, rfl, hres, hreg⟩ := eq_regWrite_of_readWord_ne hne
  rw [hreg]
  exact ⟨w, rest, sel, v, view, hcommands, hdecode, hres, writeReg_ip .., writeReg_sign ..,
    writeReg_zero ..⟩

/-- Settles O19: by contraposition: a component that changed would make the command an `IP_MODIFY`, a
`FLAG_SET` or a `REG_WRITE` of that word. -/
theorem regWriteFrame : Obligations.RegWriteFrame := by
  unfold Obligations.RegWriteFrame
  intro sel v s t hexec
  obtain rfl := exec_next hexec
  have hflag : ∀ f, readFlag (blockAfter (.regWrite sel v) s.block) f = readFlag s.block f :=
    fun f => by_contra fun hne => by
      obtain ⟨sel', v', hi, -⟩ := eq_flagSet_of_readFlag_ne hne
      nomatch hi
  refine ⟨by_contra fun hne => ?_, hflag .sign, hflag .zero, rfl,
    fun r hr => by_contra fun hne => ?_⟩
  · obtain ⟨d, hi, -⟩ := eq_ipModify_of_ip_ne hne
    nomatch hi
  · obtain ⟨sel', v', view, hi, hres, -⟩ := eq_regWrite_of_readWord_ne hne
    obtain ⟨rfl, rfl⟩ := Instr.regWrite.inj hi
    exact hr view hres

/-- Settles O28: a reading command's block is `blockAfter_of_reading`'s, and no command takes another
from the stream. -/
theorem readingCommandsChangeNothing : Obligations.ReadingCommandsChangeNothing := by
  unfold Obligations.ReadingCommandsChangeNothing
  intro i s t hreading hexec
  obtain rfl := exec_next hexec
  exact ⟨blockAfter_of_reading s.block hreading, rfl⟩

theorem writeView_writeView (c : Word) (view : View) (v : Word) :
    writeView (writeView c view v) view v = writeView c view v := by
  cases view with
  | low => simp only [writeView, cellSetLow, cellGetHigh_append]
  | high => simp only [writeView, cellSetHigh, cellGetLow_append]
  | word => rfl

/-- A write repeated is one write (R29). -/
theorem writeReg_writeReg (b : Block) (r : RegWord) (view : View) (v : Word) :
    writeReg (writeReg b r view v) r view v = writeReg b r view v := by
  refine Block.eq_of_reads (fun r' => ?_) (by simp) (fun f => by simp)
  by_cases h : r' = r <;> simp [readWord_writeReg, h, writeView_writeView]

theorem writeFlag_writeFlag (b : Block) (f : FlagName) (v : Bool) :
    writeFlag (writeFlag b f v) f v = writeFlag b f v := by cases f <;> rfl

/-- Only `IP_MODIFY` reads what it writes (R29). -/
theorem blockAfter_blockAfter {i : Instr} (b : Block) (h : ∀ d, i ≠ .ipModify d) :
    blockAfter i (blockAfter i b) = blockAfter i b := by
  obtain hb | ⟨sel, v, r, view, rfl, hres, -⟩ | ⟨d, rfl, -⟩ | ⟨sel, v, f, rfl, hres, -⟩ :=
    blockAfter_cases i b
  · rw [hb, hb]
  · simp only [blockAfter, hres, writeReg_writeReg]
  · exact absurd rfl (h d)
  · simp only [blockAfter, hres, writeFlag_writeFlag]

/-- Settles O33: by `blockAfter_blockAfter`. -/
theorem repeatingACommandChangesNothingMore : Obligations.RepeatingACommandChangesNothingMore := by
  unfold Obligations.RepeatingACommandChangesNothingMore
  intro i s t u hi hfirst hsecond
  obtain rfl := exec_next hfirst
  obtain rfl := exec_next hsecond
  exact blockAfter_blockAfter s.block hi

end Sys2Proof.Machine

/-! ### Steps over accepted words, and how a run takes them one by one (20_memory.md R30) -/

namespace Sys2Proof.Machine

/-- The machine after its next command `i`, with `rest` the stream behind it. -/
def carryOut (i : Instr) (rest : List CmdWord) (s : State) : State where
  block := blockAfter i s.block
  commands := rest
  responses := s.responses ++ [responseTo i s.block]

@[simp] theorem carryOut_block (i : Instr) (rest : List CmdWord) (s : State) :
    (carryOut i rest s).block = blockAfter i s.block := rfl

@[simp] theorem carryOut_commands (i : Instr) (rest : List CmdWord) (s : State) :
    (carryOut i rest s).commands = rest := rfl

@[simp] theorem carryOut_responses (i : Instr) (rest : List CmdWord) (s : State) :
    (carryOut i rest s).responses = s.responses ++ [responseTo i s.block] := rfl

theorem step_eq_carryOut {s : State} {w : CmdWord} {rest : List CmdWord} {i : Instr}
    (hcommands : s.commands = w :: rest) (hdecode : decode w = .ok i) :
    step s = .next (carryOut i rest s) := by
  rw [step_of_decode hcommands hdecode, exec_eq]
  rfl

/-- A run over an accepted word goes on from the state after its command. -/
theorem run_succ_of_decode {s : State} {w : CmdWord} {rest : List CmdWord} {i : Instr}
    (hcommands : s.commands = w :: rest) (hdecode : decode w = .ok i) (n : Nat) :
    run (n + 1) s = run n (carryOut i rest s) := by
  rw [run_succ, step_eq_carryOut hcommands hdecode]

end Sys2Proof.Machine

/-! ### Reads after writes: the views of one word and of two (41_register_access.md R56, R82) -/

namespace Sys2Proof.Machine

/-- A command has one answer, that of `exec_eq`. -/
theorem answers_iff {i : Instr} {s : State} {r : Response} :
    Answers i s r ↔ responseTo i s.block = r := by
  refine ⟨fun ⟨t, hexec, hresponses⟩ => responseTo_eq_of_exec hexec hresponses, ?_⟩
  rintro rfl
  exact answers_responseTo i s

/-- A register name answers its view of its word (R54). -/
theorem answers_regRead_iff {sel : Selector} {r : RegWord} {view : View} {s : State} {x : Word}
    (h : resolveReg sel = .reg r view) :
    Answers (.regRead sel) s (.reply .none x) ↔ readView (readWord s.block r) view = x := by
  rw [answers_iff, responseTo, h]
  simp

/-- The block after a write through a register name (R55). -/
theorem block_of_exec_regWrite {sel : Selector} {r : RegWord} {view : View} {v : Word} {s t : State}
    (h : resolveReg sel = .reg r view) (hexec : exec (.regWrite sel v) s = .next t) :
    t.block = writeReg s.block r view v := by
  rw [exec_next hexec, blockAfter, h]

@[simp] theorem extractLsb'_low_zeroExtend (v : Byte) : (zeroExtend v).extractLsb' 0 8 = v := by
  rw [zeroExtend_eq_append]
  exact BitVec.extractLsb'_append_eq_right

/-- Selectors `n`, `n + 4` and `n + 8` are the three names of one byte-aliased word (R36). -/
theorem exists_resolveReg_views {n : Selector} (h : n < 4#5) :
    ∃ r, resolveReg n = .reg r .low ∧ resolveReg (n + 4#5) = .reg r .high ∧
      resolveReg (n + 8#5) = .reg r .word := by
  have hcases : n = 0#5 ∨ n = 1#5 ∨ n = 2#5 ∨ n = 3#5 := by bv_omega
  rcases hcases with rfl | rfl | rfl | rfl <;> exact ⟨_, rfl, rfl, rfl⟩

/-- Settles O20: the three names read and write one cell, where a byte write keeps the other byte. -/
theorem byteNamesAliasTheirWord : Obligations.ByteNamesAliasTheirWord := by
  unfold Obligations.ByteNamesAliasTheirWord
  intro n hn s
  obtain ⟨r, hlow, hhigh, hword⟩ := exists_resolveReg_views hn
  simp only [answers_regRead_iff hlow, answers_regRead_iff hhigh, answers_regRead_iff hword]
  refine ⟨⟨_, _, rfl, rfl, ?_⟩, fun v x y t => ⟨?_, ?_, ?_⟩⟩
  · simp [readView, cellGetHigh_append_cellGetLow]
  · rintro hexec rfl
    rw [block_of_exec_regWrite hlow hexec]
    simp [readWord_writeReg, readView, writeView, cellSetLow, truncate]
  · rintro hexec rfl
    rw [block_of_exec_regWrite hhigh hexec]
    simp [readWord_writeReg, readView, writeView, cellSetHigh, truncate]
  · intro hexec
    rw [block_of_exec_regWrite hword hexec]
    simp [readWord_writeReg, readView, writeView, cellSet, zeroExtend_eq_append, cellGetLow,
      cellGetHigh]

/-- Settles O21: a write changes the one word its selector resolves to. -/
theorem writesReachOneWordOnly : Obligations.WritesReachOneWordOnly := by
  unfold Obligations.WritesReachOneWordOnly
  intro a b r r' view view' v x s t ha hb hne hexec hread
  rw [answers_regRead_iff hb] at hread ⊢
  rw [block_of_exec_regWrite ha hexec, readWord_writeReg, if_neg hne.symm, hread]

/-- The byte names have selectors below 8 (R36). -/
theorem lt_eight_iff_view_ne_word {sel : Selector} {r : RegWord} {view : View}
    (h : resolveReg sel = .reg r view) : sel < 8#5 ↔ view ≠ .word := by
  revert sel
  cases r <;> cases view <;> decide

/-- A name's view reads back what was written through it, a byte view its low byte (R82). -/
theorem readView_writeView {sel : Selector} {r : RegWord} {view : View} (c v : Word)
    (h : resolveReg sel = .reg r view) :
    readView (writeView c view v) view = if sel < 8#5 then 0#8 ++ v.extractLsb' 0 8 else v := by
  simp only [lt_eight_iff_view_ne_word h]
  cases view with
  | low => simp [readView, writeView, zeroExtend_eq_append, truncate]
  | high => simp [readView, writeView, zeroExtend_eq_append, truncate]
  | word => rfl

/-- Two commands of a stream, carried out one after the other. -/
theorem run_two_encode {s : State} {i j : Instr} {rest : List CmdWord}
    (h : s.commands = encode i :: encode j :: rest) :
    ∃ t, run 2 s = .next t ∧ t.commands = rest ∧ t.responses = s.responses ++
      [responseTo i s.block, responseTo j (blockAfter i s.block)] := by
  refine ⟨carryOut j rest (carryOut i (encode j :: rest) s), ?_, rfl, by simp⟩
  rw [run_succ_of_decode h (decode_encode i), run_succ_of_decode rfl (decode_encode j)]
  rfl

theorem exists_resolveFlag_eq_flag {sel : Selector} (h : sel < 2#5) :
    ∃ f, resolveFlag sel = .flag f := by
  have hcases : sel = 0#5 ∨ sel = 1#5 := by bv_omega
  rcases hcases with rfl | rfl <;> exact ⟨_, rfl⟩

/-- Settles O34: the second response of `run_two_encode` is a read of the block the write left. -/
theorem readsSeeTheLatestWrite : Obligations.ReadsSeeTheLatestWrite := by
  unfold Obligations.ReadsSeeTheLatestWrite
  refine fun s rest =>
    ⟨fun sel v hsel h => ?_, fun sel b hsel h => ?_, fun d h => run_two_encode h⟩
  · obtain ⟨r, view, hres⟩ := exists_resolveReg_eq_reg hsel
    simpa [responseTo, blockAfter, hres, readWord_writeReg, readView_writeView _ _ hres]
      using run_two_encode h
  · obtain ⟨f, hres⟩ := exists_resolveFlag_eq_flag hsel
    simpa [responseTo, blockAfter, hres, boolWord] using run_two_encode h

end Sys2Proof.Machine

/-! ### Whole runs: how far they go, and what they keep (20_memory.md, 42_ip.md, 43_flags.md) -/

namespace Sys2Proof.Machine

/-- A refused word ends a run (R42). -/
theorem run_succ_of_decode_error {s : State} {w : CmdWord} {rest : List CmdWord}
    {why : DecodeRefusal} (hcommands : s.commands = w :: rest) (hdecode : decode w = .error why)
    (n : Nat) : run (n + 1) s = .refused (.reservedWord why) := by
  rw [run_succ, step_cons hcommands, execWord, hdecode]

/-- A run over a stream that has a next state carried out the command of its first word. -/
theorem run_cons_cases {s t : State} {w : CmdWord} {rest : List CmdWord} {n : Nat}
    (hcommands : s.commands = w :: rest) (hrun : run (n + 1) s = .next t) :
    ∃ i, decode w = .ok i ∧ run n (carryOut i rest s) = .next t := by
  cases hdecode : decode w with
  | error why => rw [run_succ_of_decode_error hcommands hdecode] at hrun; nomatch hrun
  | ok i => exact ⟨i, rfl, by rwa [run_succ_of_decode hcommands hdecode] at hrun⟩

/-- With no command issued a run stays where it is (R17). -/
theorem run_of_commands_nil {s : State} (h : s.commands = []) (n : Nat) : run n s = .next s := by
  induction n with
  | zero => rfl
  | succ n ih => simpa only [run_succ, step_nil h] using ih

/-- A stream runs to its end exactly when the decoder accepts each of its words (R42). -/
theorem exists_run_length_iff (s : State) :
    (∃ t, run s.commands.length s = .next t) ↔ accepted s = true := by
  induction hcommands : s.commands generalizing s with
  | nil => simp [run, accepted, hcommands]
  | cons w rest ih =>
    have haccepted : accepted s = (wellFormedWord w && rest.all wellFormedWord) := by
      simp [accepted, hcommands]
    rw [haccepted, Bool.and_eq_true, wellFormedWord_iff, List.length_cons]
    constructor
    · rintro ⟨t, hrun⟩
      obtain ⟨i, hdecode, hrest⟩ := run_cons_cases hcommands hrun
      exact ⟨⟨i, hdecode⟩, (ih (carryOut i rest s) rfl).1 ⟨t, hrest⟩⟩
    · rintro ⟨⟨i, hdecode⟩, hrest⟩
      rw [run_succ_of_decode hcommands hdecode]
      exact (ih (carryOut i rest s) rfl).2 hrest

/-- A stream that ran to its end is used up, and place `k` of the new responses holds the answer of
command `k` in the state that the `k` commands before it lead to (R40). -/
theorem responses_of_run_length {s t : State} (hrun : run s.commands.length s = .next t) :
    t.commands = [] ∧ ∃ rs, t.responses = s.responses ++ rs ∧ rs.length = s.commands.length ∧
      ∀ (k : Nat) (w : CmdWord), s.commands[k]? = some w →
        ∃ u i r, run k s = .next u ∧ decode w = .ok i ∧ Answers i u r ∧ rs[k]? = some r := by
  induction hcommands : s.commands generalizing s with
  | nil =>
    rw [hcommands] at hrun
    obtain rfl : s = t := Host.Outcome.next.inj hrun
    exact ⟨hcommands, [], by simp, rfl, by simp⟩
  | cons w rest ih =>
    rw [hcommands] at hrun
    obtain ⟨i, hdecode, hrest⟩ := run_cons_cases hcommands hrun
    obtain ⟨hend, rs, hresponses, hlength, hanswers⟩ := ih (s := carryOut i rest s) hrest rfl
    refine ⟨hend, responseTo i s.block :: rs, by simp [hresponses], by simp [hlength], ?_⟩
    intro k w' hk
    cases k with
    | zero =>
      obtain rfl : w = w' := by simpa using hk
      exact ⟨s, i, _, rfl, hdecode, answers_responseTo i s, rfl⟩
    | succ k =>
      rw [run_succ_of_decode hcommands hdecode]
      exact hanswers k w' hk

/-- Settles O44: both parts by induction over the stream. -/
theorem streamRunsToItsEndExactlyWhenAccepted :
    Obligations.StreamRunsToItsEndExactlyWhenAccepted := by
  unfold Obligations.StreamRunsToItsEndExactlyWhenAccepted
  exact fun s => ⟨exists_run_length_iff s, fun _ hrun => responses_of_run_length hrun⟩

/-- The delta of a packed word is its data, for the operation `010` (R58). -/
theorem ipDelta_packWord (op : BitVec 3) (sel : Selector) (data : Word) :
    ipDelta (packWord op sel data) = if op = 0b010#3 then data else 0#16 := by
  have hfields : ∀ w, ipDelta w = if opField w = 0b010#3 then dataField w else 0#16 :=
    fun _ => rfl
  rw [hfields, opField_packWord, dataField_packWord]

/-- The words of the other six commands have no delta. -/
theorem ipDelta_encode_of_ne {i : Instr} (h : ∀ d, i ≠ .ipModify d) : ipDelta (encode i) = 0#16 := by
  cases i with
  | ipModify d => exact absurd rfl (h d)
  | regRead sel | regWrite sel v | ipRead | flagSet sel v | flagRead sel | dump =>
    rw [encode, ipDelta_packWord]
    rfl

/-- Every command adds to `ip` the delta of its word (R17, R58). -/
theorem ip_blockAfter {w : CmdWord} {i : Instr} (hdecode : decode w = .ok i) (b : Block) :
    (blockAfter i b).ip = b.ip + ipDelta w := by
  obtain rfl := (decode_eq_ok_iff w i).1 hdecode
  by_cases h : ∃ d, i = .ipModify d
  · obtain ⟨d, rfl⟩ := h
    rw [encode, ipDelta_packWord]
    rfl
  · have hne : ∀ d, i ≠ .ipModify d := fun d hi => h ⟨d, hi⟩
    rw [ipDelta_encode_of_ne hne, BitVec.add_zero]
    by_contra hip
    obtain ⟨d, hi, -⟩ := eq_ipModify_of_ip_ne hip
    exact hne d hi

/-- `ip` follows the deltas of the words carried out (R60). -/
theorem ip_of_run {n : Nat} {s t : State} (hrun : run n s = .next t) :
    t.block.ip = s.block.ip + ipDeltas (s.commands.take n) := by
  induction n generalizing s with
  | zero =>
    obtain rfl : s = t := Host.Outcome.next.inj hrun
    simp [ipDeltas]
  | succ n ih =>
    cases hcommands : s.commands with
    | nil =>
      rw [run_of_commands_nil hcommands] at hrun
      obtain rfl : s = t := Host.Outcome.next.inj hrun
      simp [ipDeltas]
    | cons w rest =>
      obtain ⟨i, hdecode, hrest⟩ := run_cons_cases hcommands hrun
      rw [ih hrest, carryOut_block, carryOut_commands, ip_blockAfter hdecode, List.take_succ_cons,
        ipDeltas, BitVec.add_assoc]

/-- Settles O45: by induction over the number of steps. -/
theorem runMovesIpByItsDeltas : Obligations.RunMovesIpByItsDeltas := by
  unfold Obligations.RunMovesIpByItsDeltas
  exact fun _ _ _ hrun => ip_of_run hrun

/-- Whether a packed word's operation can write is read off the operation (R35). -/
theorem isWriter_packWord (op : BitVec 3) (sel : Selector) (data : Word) :
    isWriter (packWord op sel data) = (op == 0b001#3 || op == 0b010#3 || op == 0b100#3) := by
  have hfields : ∀ w,
      isWriter w = (opField w == 0b001#3 || opField w == 0b010#3 || opField w == 0b100#3) :=
    fun _ => rfl
  rw [hfields, opField_packWord]

/-- A word that is no writer's leaves the block as it was (R29). -/
theorem blockAfter_of_not_isWriter {w : CmdWord} {i : Instr} (hdecode : decode w = .ok i)
    (hw : isWriter w = false) (b : Block) : blockAfter i b = b := by
  obtain rfl := (decode_eq_ok_iff w i).1 hdecode
  cases i with
  | regWrite sel v | ipModify d | flagSet sel v =>
    rw [encode, isWriter_packWord] at hw
    nomatch hw
  | regRead sel | ipRead | flagRead sel | dump => rfl

/-- Two machines with one block, the second issued the writing words of the first's stream, end with
one block. -/
theorem run_filter_isWriter {s s' t : State} (hblock : s'.block = s.block)
    (hfilter : s'.commands = s.commands.filter isWriter)
    (hrun : run s.commands.length s = .next t) :
    ∃ u, run s'.commands.length s' = .next u ∧ u.block = t.block := by
  induction hcommands : s.commands generalizing s s' with
  | nil =>
    rw [hcommands] at hrun hfilter
    obtain rfl : s = t := Host.Outcome.next.inj hrun
    exact ⟨s', run_of_commands_nil hfilter _, hblock⟩
  | cons w rest ih =>
    rw [hcommands] at hrun hfilter
    obtain ⟨i, hdecode, hrest⟩ := run_cons_cases hcommands hrun
    cases hw : isWriter w with
    | false =>
      rw [List.filter_cons_of_neg (by simp [hw])] at hfilter
      have hkeep : s'.block = (carryOut i rest s).block := by
        rw [carryOut_block, blockAfter_of_not_isWriter hdecode hw, hblock]
      exact ih (s := carryOut i rest s) hkeep hfilter hrest rfl
    | true =>
      rw [List.filter_cons_of_pos hw] at hfilter
      rw [hfilter, List.length_cons, run_succ_of_decode hfilter hdecode]
      have hkeep : (carryOut i (rest.filter isWriter) s').block = (carryOut i rest s).block := by
        rw [carryOut_block, carryOut_block, hblock]
      exact ih (s := carryOut i rest s) hkeep rfl hrest rfl

/-- Settles O46: by induction over the stream, the reading words leaving the block as it was. -/
theorem readsCanBeLeftOutOfARun : Obligations.ReadsCanBeLeftOutOfARun := by
  unfold Obligations.ReadsCanBeLeftOutOfARun
  exact fun s t hrun => run_filter_isWriter (s := s)
    (s' := { s with commands := s.commands.filter isWriter }) rfl rfl hrun

/-- Blocks that agree but for their flags, said of their reads. -/
theorem sameButFlags_iff (b b' : Block) :
    sameButFlags b b' ↔ (∀ r, readWord b r = readWord b' r) ∧ b.ip = b'.ip := by
  constructor
  · rintro ⟨hax, hbx, hcx, hdx, hsp, hbp, hsi, hdi, hip⟩
    refine ⟨fun r => ?_, hip⟩
    cases r <;> assumption
  · rintro ⟨hword, hip⟩
    exact ⟨hword .ax, hword .bx, hword .cx, hword .dx, hword .sp, hword .bp, hword .si, hword .di,
      hip⟩

/-- No command lets a flag reach a word or `ip` (R20). -/
theorem sameButFlags_blockAfter (i : Instr) {b b' : Block} (h : sameButFlags b b') :
    sameButFlags (blockAfter i b) (blockAfter i b') := by
  rw [sameButFlags_iff] at h ⊢
  obtain ⟨hword, hip⟩ := h
  cases i with
  | regWrite sel v =>
    simp only [blockAfter]
    cases resolveReg sel with
    | reg r view => exact ⟨fun r' => by simp only [readWord_writeReg, hword], by simp [hip]⟩
    | ipName | noName => exact ⟨hword, hip⟩
  | ipModify d => exact ⟨fun r => by simp [blockAfter, hword], by simp [blockAfter, hip]⟩
  | flagSet sel v =>
    simp only [blockAfter]
    cases resolveFlag sel with
    | flag f => exact ⟨fun r => by simp [hword], by simp [hip]⟩
    | noName => exact ⟨hword, hip⟩
  | regRead sel | ipRead | flagRead sel | dump => exact ⟨hword, hip⟩

/-- Machines that differ in their flags and responses alone run one stream alike. -/
theorem run_sameButFlags {n : Nat} {s s' t : State} (hblock : sameButFlags s.block s'.block)
    (hstream : s.commands = s'.commands) (hrun : run n s = .next t) :
    ∃ t', run n s' = .next t' ∧ sameButFlags t.block t'.block ∧ t.commands = t'.commands := by
  induction n generalizing s s' with
  | zero =>
    obtain rfl : s = t := Host.Outcome.next.inj hrun
    exact ⟨s', rfl, hblock, hstream⟩
  | succ n ih =>
    cases hcommands : s.commands with
    | nil =>
      rw [run_of_commands_nil hcommands] at hrun
      obtain rfl : s = t := Host.Outcome.next.inj hrun
      exact ⟨s', run_of_commands_nil (hstream ▸ hcommands) _, hblock, hstream⟩
    | cons w rest =>
      obtain ⟨i, hdecode, hrest⟩ := run_cons_cases hcommands hrun
      rw [run_succ_of_decode (hstream ▸ hcommands) hdecode]
      exact ih (s := carryOut i rest s) (s' := carryOut i rest s')
        (sameButFlags_blockAfter i hblock) rfl hrest

/-- Settles O47: by induction over the number of steps; each command keeps the agreement. -/
theorem flagsNeverReachRegistersOrIp : Obligations.FlagsNeverReachRegistersOrIp := by
  unfold Obligations.FlagsNeverReachRegistersOrIp
  exact fun _ _ _ _ hblock hstream hrun => run_sameButFlags hblock hstream hrun

/-- All that a command issued at place `k` can do to the list: nothing, for a place past its end, or
that machine's own step there (R77). -/
theorem stepInstance_cases {k : Nat} {sys sys' : List State} (h : stepInstance k sys = .next sys') :
    (sys[k]? = none ∧ sys' = sys) ∨
      ∃ s t, sys[k]? = some s ∧ step s = .next t ∧ sys' = sys.set k t := by
  unfold stepInstance at h
  cases hk : sys[k]? with
  | none =>
    simp only [hk] at h
    exact .inl ⟨rfl, (Host.Outcome.next.inj h).symm⟩
  | some s =>
    cases hstep : step s with
    | next t =>
      simp only [hk, hstep] at h
      exact .inr ⟨s, t, rfl, hstep, (Host.Outcome.next.inj h).symm⟩
    | fault f => nomatch f
    | refused r => simp [hk, hstep] at h

/-- Settles O48: by `stepInstance_cases` at most the entry at `k` is set. -/
theorem instancesShareNothing : Obligations.InstancesShareNothing := by
  unfold Obligations.InstancesShareNothing
  intro k j sys sys' h
  obtain ⟨hk, rfl⟩ | ⟨s, t, hk, hstep, rfl⟩ := stepInstance_cases h
  · exact ⟨rfl, fun _ => rfl, by simp [hk]⟩
  · refine ⟨List.length_set, fun hne => List.getElem?_set_ne hne.symm, fun s' hs' => ?_⟩
    obtain rfl : s = s' := Option.some.inj (hk.symm.trans hs')
    obtain ⟨hlt, -⟩ := List.getElem?_eq_some_iff.1 hk
    exact ⟨t, hstep, List.getElem?_set_self hlt⟩

end Sys2Proof.Machine

/-! ### Names as strings: what they resolve to, and the document's calls (10_state.md, R38) -/

namespace Sys2Proof.Machine

/-- A string is one of the 16 register names, `ip`, or neither (R13 to R15). -/
theorem name_cases {P : String → Prop} (hlisted : ∀ name ∈ registerNames, P name) (hip : P "ip")
    (hother : ∀ name ∉ registerNames, name ≠ "ip" → P name) (name : String) : P name := by
  by_cases hmem : name ∈ registerNames
  · exact hlisted name hmem
  by_cases hname : name = "ip"
  · exact hname ▸ hip
  · exact hother name hmem hname

/-- A string is one of the two flag names or neither (R19). -/
theorem flagName_cases {P : String → Prop} (hsign : P "sign") (hzero : P "zero")
    (hother : ∀ name, name ≠ "sign" → name ≠ "zero" → P name) (name : String) : P name := by
  by_cases h : name = "sign"
  · exact h ▸ hsign
  by_cases h' : name = "zero"
  · exact h' ▸ hzero
  · exact hother name h h'

theorem resolveRegName_of_not_mem {name : String} (hname : name ∉ registerNames)
    (hip : name ≠ "ip") : resolveRegName name = .noName := by
  revert hname hip
  unfold resolveRegName
  split <;> simp [registerNames]

theorem resolveFlagName_of_ne {name : String} (hsign : name ≠ "sign") (hzero : name ≠ "zero") :
    resolveFlagName name = .noName := by
  unfold resolveFlagName
  split
  · exact absurd rfl hsign
  · exact absurd rfl hzero
  · rfl

/-- The string boundary gives a register name the selector of what it names (R38, R53). -/
theorem resolveReg_regSelector (name : String) :
    resolveReg (regSelector name) = resolveRegName name := by
  induction name using name_cases with
  | hlisted name hname => revert name; decide
  | hip => decide
  | hother name hname hip =>
    rw [regSelector_of_not_mem hname hip, resolveRegName_of_not_mem hname hip]
    rfl

theorem resolveFlag_flagSelector (name : String) :
    resolveFlag (flagSelector name) = resolveFlagName name := by
  induction name using flagName_cases with
  | hsign => rfl
  | hzero => rfl
  | hother name hsign hzero =>
    rw [flagSelector_of_ne hsign hzero, resolveFlagName_of_ne hsign hzero]
    rfl

/-- Settles O40: on both paths a listed name has the selector of what it names, and any other string
has selector 31, which names nothing. -/
theorem selectorsResolveAsTheirStrings : Obligations.SelectorsResolveAsTheirStrings := by
  unfold Obligations.SelectorsResolveAsTheirStrings
  exact fun name => ⟨resolveReg_regSelector name, resolveFlag_flagSelector name⟩

/-- The listed names are those that resolve to a register view (R13). -/
theorem exists_resolveRegName_eq_reg_iff (name : String) :
    (∃ r view, resolveRegName name = .reg r view) ↔ name ∈ registerNames := by
  constructor
  · rintro ⟨r, view, hres⟩
    revert hres
    unfold resolveRegName
    split <;> simp [registerNames]
  · intro h
    have hsel : ∀ name ∈ registerNames, regSelector name < 16#5 := by decide
    rw [← resolveReg_regSelector]
    exact exists_resolveReg_eq_reg (hsel name h)

theorem resolveRegName_eq_ipName_iff (name : String) :
    resolveRegName name = .ipName ↔ name = "ip" := by
  unfold resolveRegName
  split <;> simp_all

theorem exists_resolveFlagName_eq_flag_iff (name : String) :
    (∃ f, resolveFlagName name = .flag f) ↔ name = "sign" ∨ name = "zero" := by
  unfold resolveFlagName
  split <;> simp_all

/-- Settles O39: the list is evaluated; what a string resolves to is what its selector does, which is
well formed by `resolveReg_wf`. -/
theorem exactlyTheListedNamesResolve : Obligations.ExactlyTheListedNamesResolve := by
  unfold Obligations.ExactlyTheListedNamesResolve
  refine ⟨rfl, by decide, fun name => ⟨exists_resolveRegName_eq_reg_iff name,
    resolveRegName_eq_ipName_iff name, exists_resolveFlagName_eq_flag_iff name, ?_⟩⟩
  rw [← resolveReg_regSelector]
  exact resolveReg_wf (regSelector name)

/-- Settles O41: a call that fits has the word of its command, which decodes to it; any other has no
word by definition (I9). -/
theorem everyCallHasOneCommandWord : Obligations.EveryCallHasOneCommandWord := by
  unfold Obligations.EveryCallHasOneCommandWord
  refine fun c => ⟨fun hwf => ⟨encode (callInstr c), ?_, decode_encode _⟩, fun hwf => ?_⟩
  · rw [callWord, if_pos hwf]
  · rw [callWord, if_neg (by simp [hwf])]

/-- The document's read, by what its name resolves to; `ip` reads as no name (D10). -/
theorem docGetRegister_eq (name : String) (b : Block) :
    docGetRegister name b =
      match resolveRegName name with
      | .reg r view => .ok (readView (readWord b r) view)
      | .ipName | .noName => .error .unknownRegister := by
  induction name using name_cases with
  | hlisted name hname => fin_cases hname <;> rfl
  | hip => rfl
  | hother name hname hip =>
    rw [resolveRegName_of_not_mem hname hip]
    revert hname
    unfold docGetRegister
    split <;> simp [registerNames]

/-- The document's write, by what its name resolves to (R55). -/
theorem docSetRegister_eq (name : String) (v : Word) (b : Block) :
    docSetRegister name v b =
      match resolveRegName name with
      | .reg r view => .ok (writeReg b r view v)
      | .ipName => .error .invalidOperation
      | .noName => .error .unknownRegister := by
  induction name using name_cases with
  | hlisted name hname => fin_cases hname <;> rfl
  | hip => rfl
  | hother name hname hip =>
    rw [resolveRegName_of_not_mem hname hip]
    revert hname hip
    unfold docSetRegister
    split <;> simp [registerNames]

theorem docSetFlag_eq (name : String) (v : Bool) (b : Block) :
    docSetFlag name v b =
      match resolveFlagName name with
      | .flag f => .ok (writeFlag b f v)
      | .noName => .error .unknownFlag := by
  induction name using flagName_cases with
  | hsign => rfl
  | hzero => rfl
  | hother name hsign hzero =>
    rw [resolveFlagName_of_ne hsign hzero]
    unfold docSetFlag
    split <;> simp_all

theorem docGetFlag_eq (name : String) (b : Block) :
    docGetFlag name b =
      match resolveFlagName name with
      | .flag f => .ok (readFlag b f)
      | .noName => .error .unknownFlag := by
  induction name using flagName_cases with
  | hsign => rfl
  | hzero => rfl
  | hother name hsign hzero =>
    rw [resolveFlagName_of_ne hsign hzero]
    unfold docGetFlag
    split <;> simp_all

/-- The exact signed sum, wrapped into 16 bits, is the sum modulo 2^16 (R58). -/
theorem docModifyIp_eq (delta : Int) (b : Block) :
    docModifyIp delta b = { b with ip := b.ip + BitVec.ofInt 16 delta } := by
  rw [docModifyIp, BitVec.ofInt_add, BitVec.ofInt_toInt]

/-- Settles O42: the command's selector resolves to what the call's string names, and the document's
operation is the command's meaning for each of the things a name may resolve to. -/
theorem commandsRefineTheDocumentCalls : Obligations.CommandsRefineTheDocumentCalls := by
  unfold Obligations.CommandsRefineTheDocumentCalls
  intro s
  refine ⟨fun name => ?_, fun name value _ => ?_, fun delta _ _ => ?_,
    ⟨s.block.ip, exec_ipRead s, rfl⟩, fun name value => ?_, fun name => ?_, exec_dump s⟩
  · have hres := resolveReg_regSelector name
    rw [docGetRegister_eq, callInstr, exec_eq]
    cases hname : resolveRegName name <;> simp [blockAfter, responseTo, hres, hname]
  · have hres := resolveReg_regSelector name
    rw [docSetRegister_eq, callInstr, exec_eq]
    cases hname : resolveRegName name <;> simp [blockAfter, responseTo, hres, hname]
  · rw [docModifyIp_eq]
    exact exec_ipModify _ s
  · have hres := resolveFlag_flagSelector name
    rw [docSetFlag_eq, callInstr, exec_eq]
    cases hname : resolveFlagName name <;> simp [blockAfter, responseTo, hres, hname]
  · have hres := resolveFlag_flagSelector name
    rw [docGetFlag_eq, callInstr, exec_eq]
    cases hname : resolveFlagName name <;> simp [blockAfter, responseTo, hres, hname, boolWord]

end Sys2Proof.Machine

/-! ### Numerals: digits of either case, leading zeros, and their number (30_encoding.md R44) -/

namespace Sys2Proof.Machine

theorem digitValue_digitChar {base d : Nat} (hbase : base ≤ 16) (hd : d < base) :
    digitValue base (Nat.digitChar d) = some d := by
  have hlt : d < 16 := by omega
  interval_cases d <;> simp [digitValue, Nat.digitChar, hd]

/-- The case of a hexadecimal digit does not matter; no other letter is a digit in either case. -/
theorem digitValue_toLower (c : Char) : digitValue 16 c.toLower = digitValue 16 c := by
  by_cases hupper : c.isUpper = true
  · have hrange : 65 ≤ c.toNat ∧ c.toNat ≤ 90 := by
      simpa [Char.isUpper, UInt32.le_iff_toNat_le] using hupper
    obtain ⟨hlow, hhigh⟩ := hrange
    rw [← Char.ofNat_toNat c]
    generalize c.toNat = n at hlow hhigh
    interval_cases n <;> rfl
  · rw [Char.toLower_eq_of_not_isUpper hupper]

theorem readDigits_map_toLower (cs : List Char) (acc : Nat) :
    readDigits 16 (cs.map Char.toLower) acc = readDigits 16 cs acc := by
  induction cs generalizing acc with
  | nil => rfl
  | cons c cs ih => simp only [List.map_cons, readDigits, digitValue_toLower, ih]

/-- The digits of a number read as the number. -/
theorem readDigits_toDigits {base : Nat} (hlow : 1 < base) (hhigh : base ≤ 16) (v : Nat) :
    readDigits base (Nat.toDigits base v) 0 = some v := by
  induction v using Nat.strongRecOn with
  | ind v ih =>
    by_cases hv : v < base
    · rw [Nat.toDigits_of_lt_base hv]
      simp [readDigits, digitValue_digitChar hhigh hv]
    · have hle : base ≤ v := Nat.le_of_not_lt hv
      have hdigit : digitValue base (Nat.digitChar (v % base)) = some (v % base) :=
        digitValue_digitChar hhigh (Nat.mod_lt _ (by omega))
      rw [Nat.toDigits_of_base_le hlow hle, readDigits_append,
        ih (v / base) (Nat.div_lt_self (by omega) hlow)]
      simp [readDigits, hdigit, Nat.div_add_mod']

/-- Leading zeros add nothing. -/
theorem readDigits_zeros {base : Nat} (hbase : 0 < base) (z : Nat) (cs : List Char) :
    readDigits base (List.replicate z '0' ++ cs) 0 = readDigits base cs 0 := by
  have hzero : digitValue base '0' = some 0 := by simp [digitValue, hbase]
  induction z with
  | zero => rfl
  | succ z ih => simp [List.replicate_succ, readDigits, hzero, ih]

/-- Text that is read as the number `v`: at least one digit, and nothing but digits. -/
structure IsNumeral (base : Nat) (cs : List Char) (v : Nat) : Prop where
  ne_nil : cs ≠ []
  readDigits_eq : readDigits base cs 0 = some v

theorem isNumeral_zeros_toDigits {base : Nat} (hlow : 1 < base) (hhigh : base ≤ 16) (z v : Nat) :
    IsNumeral base (List.replicate z '0' ++ Nat.toDigits base v) v := by
  refine ⟨by simp [Nat.toDigits_ne_nil], ?_⟩
  rw [readDigits_zeros (by omega), readDigits_toDigits hlow hhigh]

theorem isNumeral_of_map_toLower {cs : List Char} {v : Nat}
    (h : IsNumeral 16 (cs.map Char.toLower) v) : IsNumeral 16 cs v where
  ne_nil := by simpa using h.ne_nil
  readDigits_eq := by rw [← readDigits_map_toLower, h.readDigits_eq]

/-- Text that reads as a number holds digits only. -/
theorem digitValue_ne_none_of_mem {base : Nat} {cs : List Char} {acc v : Nat}
    (h : readDigits base cs acc = some v) : ∀ c ∈ cs, digitValue base c ≠ none := by
  induction cs generalizing acc with
  | nil => nofun
  | cons c cs ih =>
    rw [readDigits] at h
    cases hc : digitValue base c with
    | none => simp [hc] at h
    | some d => simpa [hc] using ih (by simpa [hc] using h)

theorem IsNumeral.not_mem {base : Nat} {cs : List Char} {v : Nat} (h : IsNumeral base cs v)
    {c : Char} (hc : digitValue base c = none) : c ∉ cs := fun hmem =>
  digitValue_ne_none_of_mem h.readDigits_eq c hmem hc

/-- Text that can stand as one operand: not empty, with no blank and no comma. -/
structure IsOperand (cs : List Char) : Prop where
  ne_nil : cs ≠ []
  not_blank : ∀ c ∈ cs, isBlank c = false
  ne_comma : ∀ c ∈ cs, c ≠ ','

theorem IsNumeral.isOperand {base : Nat} {cs : List Char} {v : Nat} (h : IsNumeral base cs v) :
    IsOperand cs where
  ne_nil := h.ne_nil
  not_blank c hc := by
    have hspace : ' ' ∉ cs := h.not_mem (by simp [digitValue])
    have htab : '\t' ∉ cs := h.not_mem (by simp [digitValue])
    simp [isBlank, ne_of_mem_of_not_mem hc hspace, ne_of_mem_of_not_mem hc htab]
  ne_comma c hc := ne_of_mem_of_not_mem hc (h.not_mem (by simp [digitValue]))

/-- A character put before an operand leaves it one. -/
theorem IsOperand.cons {c : Char} {cs : List Char} (hblank : isBlank c = false) (hcomma : c ≠ ',')
    (h : IsOperand cs) : IsOperand (c :: cs) where
  ne_nil := by simp
  not_blank := by simpa [hblank] using h.not_blank
  ne_comma := by simpa [hcomma] using h.ne_comma

/-! ### Numerals as operands of `REG_WRITE` and `IP_MODIFY` (R44) -/

theorem readHex_of_isNumeral {cs : List Char} {v : Nat} (h : IsNumeral 16 cs v) :
    readHex ('0' :: 'x' :: cs) = some v := by
  cases cs with
  | nil => exact absurd rfl h.ne_nil
  | cons c cs => exact h.readDigits_eq

theorem readDecimal_of_isNumeral {cs : List Char} {v : Nat} (h : IsNumeral 10 cs v) :
    readDecimal cs = some v := by
  cases cs with
  | nil => exact absurd rfl h.ne_nil
  | cons c cs => exact h.readDigits_eq

/-- A decimal numeral has no `x`, so it is no hexadecimal one. -/
theorem readHex_of_isNumeral_decimal {cs : List Char} {v : Nat} (h : IsNumeral 10 cs v) :
    readHex cs = none := by
  have hx : 'x' ∉ cs := h.not_mem (by simp [digitValue])
  unfold readHex
  split
  · exact absurd (by simp) hx
  · rfl

theorem readValue_decimal {cs : List Char} {v : Nat} (h : IsNumeral 10 cs v) (hv : v ≤ 0xFFFF) :
    readValue cs = some v := by
  simp [readValue, readHex_of_isNumeral_decimal h, readDecimal_of_isNumeral h, hv]

theorem readValue_hex {cs : List Char} {v : Nat} (h : IsNumeral 16 cs v) (hv : v ≤ 0xFFFF) :
    readValue ('0' :: 'x' :: cs) = some v := by
  simp [readValue, readHex_of_isNumeral h, hv]

/-- A 16-bit pattern read as two's complement (R44). -/
theorem toInt_ofNat_word {v : Nat} (hv : v ≤ 0xFFFF) :
    (BitVec.ofNat 16 v).toInt = if v < 32768 then (v : Int) else (v : Int) - 65536 := by
  rw [BitVec.toInt_eq_toNat_cond, BitVec.toNat_ofNat, Nat.mod_eq_of_lt (by omega)]
  split_ifs <;> omega

theorem readDelta_hex {cs : List Char} {v : Nat} (h : IsNumeral 16 cs v) (hv : v ≤ 0xFFFF) :
    readDelta ('0' :: 'x' :: cs) = some (if v < 32768 then (v : Int) else (v : Int) - 65536) := by
  simp [readDelta, readHex_of_isNumeral h, hv, toInt_ofNat_word hv]

theorem readDelta_decimal {cs : List Char} {v : Nat} (h : IsNumeral 10 cs v) (hv : v ≤ 32767) :
    readDelta cs = some (v : Int) := by
  have hminus : '-' ∉ cs := h.not_mem (by simp [digitValue])
  unfold readDelta
  split
  · exact absurd (by simp) hminus
  · simp [readHex_of_isNumeral_decimal h, readDecimal_of_isNumeral h, hv]

theorem readDelta_neg {cs : List Char} {v : Nat} (h : IsNumeral 10 cs v) (hv : v ≤ 32768) :
    readDelta ('-' :: cs) = some (-(v : Int)) := by
  simp [readDelta, readDecimal_of_isNumeral h, hv]

/-! ### Whole lines (R44) -/

theorem IsOperand.not_blank_head {cs : List Char} (h : IsOperand cs) :
    ∀ c, cs.head? = some c → isBlank c = false := fun c hc =>
  h.not_blank c (List.mem_of_head? hc)

theorem IsOperand.not_blank_getLast {cs : List Char} (h : IsOperand cs) :
    ∀ c, cs.getLast? = some c → isBlank c = false := fun c hc =>
  h.not_blank c (List.mem_of_getLast? hc)

theorem IsOperand.trimBlanks {cs : List Char} (h : IsOperand cs) : trimBlanks cs = cs :=
  trimBlanks_of_ends h.not_blank_head h.not_blank_getLast

/-- An `IP_MODIFY` line with an operand is read as its delta. -/
theorem readLine_ipModify {cs : List Char} (h : IsOperand cs) {line : String}
    (hline : line.toList = "IP_MODIFY ".toList ++ cs) :
    readLine line = (readDelta cs).map .modifyIp := by
  have hshape : line = String.ofList ("IP_MODIFY".toList ++ ' ' :: cs) := by
    rw [← String.toList_inj, hline]
    simp
  rw [hshape, readLine_operands (by simp) (by simp [isBlank]) h.ne_nil h.not_blank_head
    h.not_blank_getLast, splitCommas_of_no_comma h.ne_comma, List.map_singleton, h.trimBlanks,
    String.ofList_toList]
  rfl

/-- Two operands with a comma and a space between them are taken apart (R44). -/
theorem map_trimBlanks_splitCommas {xs ys : List Char} (hxs : IsOperand xs) (hys : IsOperand ys) :
    (splitCommas (xs ++ ',' :: ' ' :: ys)).map trimBlanks = [xs, ys] := by
  have hsecond : splitCommas (' ' :: ys) = [' ' :: ys] :=
    splitCommas_of_no_comma (by simpa using hys.ne_comma)
  rw [splitCommas_append_comma _ hxs.ne_comma, hsecond]
  simp [trimBlanks_cons ys (c := ' ') rfl, hxs.trimBlanks, hys.trimBlanks]

/-- A `REG_WRITE` line with two operands is read as their name and value. -/
theorem readLine_regWrite {name : String} {cs : List Char} {v : Nat} (hname : IsOperand name.toList)
    (h : IsOperand cs) (hvalue : readValue cs = some v) {line : String}
    (hline : line.toList = "REG_WRITE ".toList ++ (name.toList ++ (", ".toList ++ cs))) :
    readLine line = some (.setNewRegisterValue name v) := by
  have hshape :
      line = String.ofList ("REG_WRITE".toList ++ ' ' :: (name.toList ++ ',' :: ' ' :: cs)) := by
    rw [← String.toList_inj, hline]
    simp
  have hhead : ∀ c, (name.toList ++ ',' :: ' ' :: cs).head? = some c → isBlank c = false := by
    rw [List.head?_append_of_ne_nil _ hname.ne_nil]
    exact hname.not_blank_head
  have hlast : ∀ c, (name.toList ++ ',' :: ' ' :: cs).getLast? = some c → isBlank c = false := by
    rw [List.append_cons, List.append_cons, List.getLast?_append_of_ne_nil _ h.ne_nil]
    exact h.not_blank_getLast
  rw [hshape, readLine_operands (by simp) (by simp [isBlank]) (by simp) hhead hlast,
    map_trimBlanks_splitCommas hname h, String.ofList_toList]
  simp [readCall, readName, hname.ne_nil, hvalue]

/-- Settles O43: a line is taken apart into its operands, and each operand is a numeral that reads as
its number. -/
theorem assemblerReadsEveryNumeral : Obligations.AssemblerReadsEveryNumeral := by
  unfold Obligations.AssemblerReadsEveryNumeral
  refine ⟨fun name v z xs hne hchars hv hxs => ?_, fun v z hv => ?_, fun v z hv => ?_⟩
  · have hname : IsOperand name.toList :=
      ⟨hne, fun c hc => (hchars c hc).1, fun c hc => (hchars c hc).2⟩
    have hdecimal := isNumeral_zeros_toDigits (base := 10) (by decide) (by decide) z v
    have hhex : IsNumeral 16 xs v :=
      isNumeral_of_map_toLower (hxs ▸ isNumeral_zeros_toDigits (by decide) (by decide) z v)
    have hhexOperand : IsOperand ('0' :: 'x' :: xs) :=
      .cons rfl (by decide) (.cons rfl (by decide) hhex.isOperand)
    refine ⟨?_, ?_, ?_⟩
    · exact readLine_regWrite hname hdecimal.isOperand (readValue_decimal hdecimal hv) (by simp)
    · exact readLine_regWrite hname hhexOperand (readValue_hex hhex hv) (by simp)
    · rw [readLine_ipModify hhexOperand (by simp), readDelta_hex hhex hv]
      rfl
  · have hdecimal := isNumeral_zeros_toDigits (base := 10) (by decide) (by decide) z v
    rw [readLine_ipModify hdecimal.isOperand (by simp), readDelta_decimal hdecimal hv]
    rfl
  · have hdecimal := isNumeral_zeros_toDigits (base := 10) (by decide) (by decide) z v
    have hoperand : IsOperand ('-' :: _) := .cons rfl (by decide) hdecimal.isOperand
    rw [readLine_ipModify hoperand (by simp), readDelta_neg hdecimal hv]
    rfl

end Sys2Proof.Machine
